-- ==== Sys2Proof/Word.lean ====
section
/-! DEFINITION. The widths the spec fixes: the 32-bit Word and the byte (spec/00_scope.md R6, `WORD_BITS`, `HDR_BITS`; spec/20_memory.md R55). -/

namespace Sys2Proof

/-- A 32-bit unsigned value: every data value and every target address (R6 `WORD_BITS`). -/
abbrev Word := BitVec 32

/-- Eight bits: a Transaction Header (R6 `HDR_BITS`) or one byte of a payload. -/
abbrev Byte := BitVec 8

end Sys2Proof
end

