-- ==== Sys2Proof/Config.lean ====
section
/-! DEFINITION. What an implementation fixes (the parameters of spec/00_scope.md R6 and R7, as one record) and the free values
(what the Raw Transfer Primitive answers, R8 and R110). The values of the parameters stand in Machine/Params.lean. -/

namespace Sys2Proof

/-- `header layout` (R7): the bit positions inside the 8-bit header and the values of its framing bits (the table of R87). -/
structure HeaderLayout where
  /-- Position of Start (framing). -/
  startBit : Nat
  /-- Position of APnDP (kind). -/
  kindBit : Nat
  /-- Position of RnW (direction). -/
  dirBit : Nat
  /-- Position of A2 (address). -/
  a2Bit : Nat
  /-- Position of A3 (address). -/
  a3Bit : Nat
  /-- Position of Parity. -/
  parityBit : Nat
  /-- Position of Stop (framing). -/
  stopBit : Nat
  /-- Position of Park (framing). -/
  parkBit : Nat
  /-- Value of Start. -/
  startValue : Bool
  /-- Value of Stop. -/
  stopValue : Bool
  /-- Value of Park. -/
  parkValue : Bool
  deriving DecidableEq, Repr

/-- The parameters of R6 (stated by the document) and R7 (named by it, valued by decisions D3 to D7). They are
configuration and never written (R29). -/
structure Config where
  /-- `MAX_ATTEMPTS` (R6): most invocations of one transaction, the first included. -/
  maxAttempts : Nat
  /-- `APSEL_MASK` (R6): the AP instance, bits 31:24 of an AP address. -/
  apselMask : Word
  /-- `APBANKSEL_MASK` (R6): the AP register bank, bits 7:4 of an AP address. -/
  apBankselMask : Word
  /-- `REGSEL_MASK` (R6): the register select, bits 3:2 of an address. -/
  regselMask : Word
  /-- `TAR_SEL` (R6): register select of the Transfer Address Register. -/
  tarSel : Word
  /-- `DRW_SEL` (R6): register select of the Data Read/Write register. -/
  drwSel : Word
  /-- `DP_SELECT` (R7): address of the DP SELECT register. -/
  dpSelect : Byte
  /-- `DP_RDBUFF` (R7): address of the DP RDBUFF register. -/
  dpRdbuff : Byte
  /-- `AP_CSW` (R7): AP address of the CSW register. -/
  apCsw : Word
  /-- `CSW_BASE` (R7): the CSW configuration without its size field. -/
  cswBase : Word
  /-- `SIZE_32` (R7): the CSW size field for 32-bit accesses. -/
  size32 : Word
  /-- `ACK_OK` (R7): the raw pattern decoded as OK. -/
  ackOk : BitVec 3
  /-- `ACK_WAIT` (R7): the raw pattern decoded as WAIT. -/
  ackWait : BitVec 3
  /-- `ACK_FAULT` (R7): the raw pattern decoded as FAULT. -/
  ackFault : BitVec 3
  /-- `header layout` (R7): where the fields of a header stand. -/
  layout : HeaderLayout
  deriving DecidableEq, Repr

/-- FREE VALUE (log 5): the 3-bit pattern the primitive answers to the n-th invocation that no listed reply covers. The
oracle of R110 may answer any of the eight patterns each time, so this constant has no body: nothing can be proved of it. -/
opaque Config.freeAck : Nat → BitVec 3

/-- `T_XFER` (R8, R232): the latency of one invocation, a parameter the document never quantifies and no step reads (log 9). -/
opaque Config.tXfer : Nat

/-- FREE VALUE (log 5): the 32 data bits returned with that answer; every caller drops them (R119). -/
opaque Config.freeRdata : Nat → Word

end Sys2Proof
end

