-- ==== Sys2Proof/Machine/Params.lean ====
section
/-! DEFINITION. The values of the parameters: spec/00_scope.md R6 (the document's) and R7 (decisions D3 to D7; log 4). -/

namespace Sys2Proof.Machine

/-- The table of R87 (D6). -/
def headerLayout : HeaderLayout where
  startBit := 0
  kindBit := 1
  dirBit := 2
  a2Bit := 3
  a3Bit := 4
  parityBit := 5
  stopBit := 6
  parkBit := 7
  startValue := true
  stopValue := false
  parkValue := true

/-- R6 and R7, one value a row of their tables. -/
def config : Config where
  maxAttempts := 10
  apselMask := 0xFF000000#32
  apBankselMask := 0x000000F0#32
  regselMask := 0x0000000C#32
  tarSel := 0x00000004#32
  drwSel := 0x0000000C#32
  dpSelect := 0x08#8
  dpRdbuff := 0x0C#8
  apCsw := 0x00000000#32
  cswBase := 0x23000050#32
  size32 := 0x00000002#32
  ackOk := 0b001#3
  ackWait := 0b010#3
  ackFault := 0b100#3
  layout := headerLayout

end Sys2Proof.Machine
end

