-- ==== Sys2Proof/Syntax.lean ====
section
/-! DEFINITION. The words on the block's three interfaces, one constructor per row of spec/opcode_table.json: the command record
(format CMD, R80 to R82), the Transaction Header with its payload (format HDR, R87 to R91) and the acknowledge pattern (format
ACK, R92). -/

namespace Sys2Proof

/-- Which register space a header names (R87 bit 1, APnDP). -/
inductive Kind where
  | dp
  | ap
  deriving DecidableEq, Repr

/-- The direction of a transaction (R87 bit 2, RnW). -/
inductive Dir where
  | write
  | read
  deriving DecidableEq, Repr

/-- A Register Reference (glossary; R86, R87): kind, direction, and the only two address bits a header carries, `a[3:2]`. -/
structure RegRef where
  kind : Kind
  dir : Dir
  sel : BitVec 2
  deriving DecidableEq, Repr

/-- The four bytes of a write payload, `b0` the least significant (R90: exactly four bytes). -/
structure Payload where
  b0 : Byte
  b1 : Byte
  b2 : Byte
  b3 : Byte
  deriving DecidableEq, Repr

/-- One constructor per row of the opcode table. The CMD rows carry the record's `addr` and `data` (R80). The HDR rows carry
what R91 gives an invocation beside its header, `Option<[u8;4]>`. The ACK rows carry nothing. -/
inductive Instr where
  /-- `WRITE_DP`, op 0b00 (R130). -/
  | writeDp (addr data : Word)
  /-- `WRITE_AP`, op 0b01 (R140). -/
  | writeAp (addr data : Word)
  /-- `WRITE_WORD`, op 0b10 (R165). -/
  | writeWord (addr data : Word)
  /-- The reserved command, op 0b11 (R82). -/
  | reserved (addr data : Word)
  /-- Header 0x81. -/
  | hdrDpW0 (payload : Option Payload)
  /-- Header 0xA9. -/
  | hdrDpW4 (payload : Option Payload)
  /-- Header 0xB1 (SELECT). -/
  | hdrDpW8 (payload : Option Payload)
  /-- Header 0x99. -/
  | hdrDpWC (payload : Option Payload)
  /-- Header 0xA5, never emitted by the block. -/
  | hdrDpR0 (payload : Option Payload)
  /-- Header 0x8D, never emitted by the block. -/
  | hdrDpR4 (payload : Option Payload)
  /-- Header 0x95, never emitted by the block. -/
  | hdrDpR8 (payload : Option Payload)
  /-- Header 0xBD (the RDBUFF read-back). -/
  | hdrDpRC (payload : Option Payload)
  /-- Header 0xA3 (CSW). -/
  | hdrApW0 (payload : Option Payload)
  /-- Header 0x8B (TAR). -/
  | hdrApW4 (payload : Option Payload)
  /-- Header 0x93. -/
  | hdrApW8 (payload : Option Payload)
  /-- Header 0xBB (DRW). -/
  | hdrApWC (payload : Option Payload)
  /-- Header 0x87, never emitted by the block. -/
  | hdrApR0 (payload : Option Payload)
  /-- Header 0xAF, never emitted by the block. -/
  | hdrApR4 (payload : Option Payload)
  /-- Header 0xB7, never emitted by the block. -/
  | hdrApR8 (payload : Option Payload)
  /-- Header 0x9F, never emitted by the block. -/
  | hdrApRC (payload : Option Payload)
  /-- Pattern 0b000, a protocol error. -/
  | ackProtocolError000
  /-- Pattern 0b001, OK. -/
  | ackOk001
  /-- Pattern 0b010, WAIT. -/
  | ackWait010
  /-- Pattern 0b011, a protocol error. -/
  | ackProtocolError011
  /-- Pattern 0b100, FAULT. -/
  | ackFault100
  /-- Pattern 0b101, a protocol error. -/
  | ackProtocolError101
  /-- Pattern 0b110, a protocol error. -/
  | ackProtocolError110
  /-- Pattern 0b111, a protocol error. -/
  | ackProtocolError111
  deriving DecidableEq, Repr

end Sys2Proof
end

