-- ==== Sys2Proof/WellFormed.lean ====
section
/-! DEFINITION. Which instruction terms stand for words of an interface. The one condition is R91: a write header comes with a
4-byte payload and a read header with none. -/

namespace Sys2Proof

/-- R91: "the two combinations (write, `none`) and (read, bytes) never occur". Every command record and every acknowledge
pattern is a word of its format (R80, R92, R97), the reserved command included. -/
def Instr.wellFormed : Instr → Bool
  | .writeDp _ _ => true
  | .writeAp _ _ => true
  | .writeWord _ _ => true
  | .reserved _ _ => true
  | .hdrDpW0 p => p.isSome
  | .hdrDpW4 p => p.isSome
  | .hdrDpW8 p => p.isSome
  | .hdrDpWC p => p.isSome
  | .hdrDpR0 p => p.isNone
  | .hdrDpR4 p => p.isNone
  | .hdrDpR8 p => p.isNone
  | .hdrDpRC p => p.isNone
  | .hdrApW0 p => p.isSome
  | .hdrApW4 p => p.isSome
  | .hdrApW8 p => p.isSome
  | .hdrApWC p => p.isSome
  | .hdrApR0 p => p.isNone
  | .hdrApR4 p => p.isNone
  | .hdrApR8 p => p.isNone
  | .hdrApRC p => p.isNone
  | .ackProtocolError000 => true
  | .ackOk001 => true
  | .ackWait010 => true
  | .ackProtocolError011 => true
  | .ackFault100 => true
  | .ackProtocolError101 => true
  | .ackProtocolError110 => true
  | .ackProtocolError111 => true

end Sys2Proof
end

