-- ==== Sys2Proof/Decode.lean ====
section
/-! DEFINITION. The byte strings of the three formats and their meaning: byte order (R54, R90), the header layout (R87, R88),
the decoder, total on any bytes and rejecting by name, the encoder, and the opcode table's numbering of a word's bits. -/

namespace Sys2Proof

/-! ### Byte order -/

/-- `le_bytes(v)` (R90): `[v[7:0], v[15:8], v[23:16], v[31:24]]`. -/
def leBytes (v : Word) : Payload :=
  ⟨v.extractLsb' 0 8, v.extractLsb' 8 8, v.extractLsb' 16 8, v.extractLsb' 24 8⟩

/-- The 32-bit value whose little-endian bytes these are (R90: "the two views are the same value"). -/
def ofLeBytes (p : Payload) : Word :=
  p.b3 ++ p.b2 ++ p.b1 ++ p.b0

/-- The payload's bytes in order, byte 0 first. -/
def Payload.bytes (p : Payload) : List Byte :=
  [p.b0, p.b1, p.b2, p.b3]

/-! ### The Transaction Header -/

/-- APnDP (R87 bit 1): 0 for DebugPort, 1 for AccessPort. -/
def Kind.bit : Kind → Bool
  | .dp => false
  | .ap => true

/-- RnW (R87 bit 2): 0 for Write, 1 for Read. -/
def Dir.bit : Dir → Bool
  | .write => false
  | .read => true

/-- Header parity (R88): `kind ^ dir ^ a[2] ^ a[3]`. -/
def headerParity (r : RegRef) : Bool :=
  r.kind.bit ^^ r.dir.bit ^^ r.sel.getLsbD 0 ^^ r.sel.getLsbD 1

/-- One bit at position `n` of a header. -/
def headerBit (n : Nat) (b : Bool) : Byte :=
  (BitVec.ofBool b).setWidth 8 <<< n

/-- The header of a Register Reference in a given layout: every field at its position (R87). -/
def headerIn (l : HeaderLayout) (r : RegRef) : Byte :=
  headerBit l.startBit l.startValue ||| headerBit l.kindBit r.kind.bit ||| headerBit l.dirBit r.dir.bit |||
    headerBit l.a2Bit (r.sel.getLsbD 0) ||| headerBit l.a3Bit (r.sel.getLsbD 1) |||
    headerBit l.parityBit (headerParity r) ||| headerBit l.stopBit l.stopValue ||| headerBit l.parkBit l.parkValue

/-- The 8-bit header of a Register Reference (R87). With the configured layout it is
`0x81 | (kind << 1) | (dir << 2) | (a[2] << 3) | (a[3] << 4) | (parity << 5)`. -/
def RegRef.header (r : RegRef) : Byte :=
  headerIn Machine.config.layout r

/-- `hdr(kind, dir, a)` with the register select `a[3:2]` as its last argument (R86, R87). -/
def hdr (kind : Kind) (dir : Dir) (sel : BitVec 2) : Byte :=
  RegRef.header ⟨kind, dir, sel⟩

/-! ### The decoder -/

/-- Why a byte string is no word of any format. -/
inductive DecodeError where
  /-- No format has this many bytes (R96: a record is 66 bits, a header 8 with 32 of payload or none, a pattern 3). -/
  | badLength (length : Nat)
  /-- A bit above bit 65 of a command record is set (R80: the record has 66 bits). -/
  | recordPadding
  /-- Start, Stop or Park of a header byte is not 1, 0, 1 (R87). -/
  | headerFraming
  /-- The parity bit of a header byte is not that of R88. -/
  | headerParity
  /-- A write header without its payload (R91). -/
  | payloadMissing
  /-- A read header with payload bytes (R91). -/
  | payloadOnRead
  deriving DecidableEq, Repr

/-- The Register Reference a byte carries in a given layout, its framing and parity not looked at. -/
def regRefIn (l : HeaderLayout) (h : Byte) : RegRef where
  kind := if h.getLsbD l.kindBit then .ap else .dp
  dir := if h.getLsbD l.dirBit then .read else .write
  sel := BitVec.ofBool (h.getLsbD l.a3Bit) ++ BitVec.ofBool (h.getLsbD l.a2Bit)

/-- The framing bits of a byte have the layout's values. -/
def framedIn (l : HeaderLayout) (h : Byte) : Bool :=
  h.getLsbD l.startBit == l.startValue && h.getLsbD l.stopBit == l.stopValue && h.getLsbD l.parkBit == l.parkValue

/-- The Register Reference of a header byte in a given layout, or why there is none. -/
def decodeHeaderIn (l : HeaderLayout) (h : Byte) : Except DecodeError RegRef :=
  if framedIn l h then
    if h.getLsbD l.parityBit = headerParity (regRefIn l h) then .ok (regRefIn l h) else .error .headerParity
  else .error .headerFraming

/-- The Register Reference of a header byte, or why it is none of the sixteen headers of R89. -/
def decodeHeader (h : Byte) : Except DecodeError RegRef :=
  decodeHeaderIn Machine.config.layout h

/-- The opcode-table row of a Register Reference. -/
def headerInstr (r : RegRef) (p : Option Payload) : Instr :=
  match r.kind, r.dir, r.sel.getLsbD 1, r.sel.getLsbD 0 with
  | .dp, .write, false, false => .hdrDpW0 p
  | .dp, .write, false, true => .hdrDpW4 p
  | .dp, .write, true, false => .hdrDpW8 p
  | .dp, .write, true, true => .hdrDpWC p
  | .dp, .read, false, false => .hdrDpR0 p
  | .dp, .read, false, true => .hdrDpR4 p
  | .dp, .read, true, false => .hdrDpR8 p
  | .dp, .read, true, true => .hdrDpRC p
  | .ap, .write, false, false => .hdrApW0 p
  | .ap, .write, false, true => .hdrApW4 p
  | .ap, .write, true, false => .hdrApW8 p
  | .ap, .write, true, true => .hdrApWC p
  | .ap, .read, false, false => .hdrApR0 p
  | .ap, .read, false, true => .hdrApR4 p
  | .ap, .read, true, false => .hdrApR8 p
  | .ap, .read, true, true => .hdrApRC p

/-- A header byte with or without payload (R91 ties the two). -/
def decodeTransaction (h : Byte) (p : Option Payload) : Except DecodeError Instr :=
  match decodeHeader h with
  | .error e => .error e
  | .ok r =>
    match r.dir, p with
    | .write, none => .error .payloadMissing
    | .read, some _ => .error .payloadOnRead
    | .write, some q => .ok (headerInstr r (some q))
    | .read, none => .ok (headerInstr r none)

/-- The row of a 3-bit acknowledge pattern (R92). -/
def ackInstr (b : BitVec 3) : Instr :=
  match b.getLsbD 2, b.getLsbD 1, b.getLsbD 0 with
  | false, false, false => .ackProtocolError000
  | false, false, true => .ackOk001
  | false, true, false => .ackWait010
  | false, true, true => .ackProtocolError011
  | true, false, false => .ackFault100
  | true, false, true => .ackProtocolError101
  | true, true, false => .ackProtocolError110
  | true, true, true => .ackProtocolError111

/-- The row of a command record's `op` (R81). -/
def commandInstr (op : BitVec 2) (addr data : Word) : Instr :=
  match op.getLsbD 1, op.getLsbD 0 with
  | false, false => .writeDp addr data
  | false, true => .writeAp addr data
  | true, false => .writeWord addr data
  | true, true => .reserved addr data

/-- The decoder, total on byte strings. The formats have different lengths (R96): nine bytes are a packed command record, least
significant byte first; five are a header and its payload; one is a read header or, below 8, an acknowledge pattern (log 3). -/
def decode : List Byte → Except DecodeError Instr
  | [b] => if b.toNat < 8 then .ok (ackInstr (b.setWidth 3)) else decodeTransaction b none
  | [h, p0, p1, p2, p3] => decodeTransaction h (some ⟨p0, p1, p2, p3⟩)
  | [d0, d1, d2, d3, a0, a1, a2, a3, op] =>
    if op.toNat < 4 then
      .ok (commandInstr (op.setWidth 2) (ofLeBytes ⟨a0, a1, a2, a3⟩) (ofLeBytes ⟨d0, d1, d2, d3⟩))
    else .error .recordPadding
  | bytes => .error (.badLength bytes.length)

/-! ### The encoder -/

/-- The packed record `{op, addr, data}` of R80 as bytes, least significant first: `data` in bits 31:0, `addr` in 63:32,
`op` in 65:64. -/
def commandBytes (op : BitVec 2) (addr data : Word) : List Byte :=
  (leBytes data).bytes ++ (leBytes addr).bytes ++ [op.setWidth 8]

/-- A header byte followed by its payload's bytes, if there is one. -/
def transactionBytes (h : Byte) (p : Option Payload) : List Byte :=
  match p with
  | none => [h]
  | some q => h :: q.bytes

/-- An acknowledge pattern in the low three bits of a byte. -/
def ackBytes (b : BitVec 3) : List Byte :=
  [b.setWidth 8]

/-- The words of an instruction, from the same tables (R81, R89, R92). -/
def encode : Instr → List Byte
  | .writeDp a d => commandBytes 0b00#2 a d
  | .writeAp a d => commandBytes 0b01#2 a d
  | .writeWord a d => commandBytes 0b10#2 a d
  | .reserved a d => commandBytes 0b11#2 a d
  | .hdrDpW0 p => transactionBytes (hdr .dp .write 0b00#2) p
  | .hdrDpW4 p => transactionBytes (hdr .dp .write 0b01#2) p
  | .hdrDpW8 p => transactionBytes (hdr .dp .write 0b10#2) p
  | .hdrDpWC p => transactionBytes (hdr .dp .write 0b11#2) p
  | .hdrDpR0 p => transactionBytes (hdr .dp .read 0b00#2) p
  | .hdrDpR4 p => transactionBytes (hdr .dp .read 0b01#2) p
  | .hdrDpR8 p => transactionBytes (hdr .dp .read 0b10#2) p
  | .hdrDpRC p => transactionBytes (hdr .dp .read 0b11#2) p
  | .hdrApW0 p => transactionBytes (hdr .ap .write 0b00#2) p
  | .hdrApW4 p => transactionBytes (hdr .ap .write 0b01#2) p
  | .hdrApW8 p => transactionBytes (hdr .ap .write 0b10#2) p
  | .hdrApWC p => transactionBytes (hdr .ap .write 0b11#2) p
  | .hdrApR0 p => transactionBytes (hdr .ap .read 0b00#2) p
  | .hdrApR4 p => transactionBytes (hdr .ap .read 0b01#2) p
  | .hdrApR8 p => transactionBytes (hdr .ap .read 0b10#2) p
  | .hdrApRC p => transactionBytes (hdr .ap .read 0b11#2) p
  | .ackProtocolError000 => ackBytes 0b000#3
  | .ackOk001 => ackBytes 0b001#3
  | .ackWait010 => ackBytes 0b010#3
  | .ackProtocolError011 => ackBytes 0b011#3
  | .ackFault100 => ackBytes 0b100#3
  | .ackProtocolError101 => ackBytes 0b101#3
  | .ackProtocolError110 => ackBytes 0b110#3
  | .ackProtocolError111 => ackBytes 0b111#3

/-! ### The opcode table's numbering -/

/-- The `n` bytes of a number, least significant first. -/
def natBytes : Nat → Nat → List Byte
  | 0, _ => []
  | n + 1, w => BitVec.ofNat 8 w :: natBytes n (w / 256)

/-- The bytes of the word the table numbers `w` in `nbits` bits, every bit above them 0. Up to 8 bits it is a header or a
pattern; a write header goes on with its four payload bytes (R91), which the table gives no bits. Up to 40 bits it is a header
and its payload, and beyond that a command record (R80). -/
def tableBytes (nbits w : Nat) : List Byte :=
  let v := w % 2 ^ nbits
  if nbits ≤ 8 then
    match decodeHeader (BitVec.ofNat 8 v) with
    | .ok ⟨_, .write, _⟩ => natBytes 5 v
    | _ => natBytes 1 v
  else if nbits ≤ 40 then natBytes 5 v
  else natBytes 9 v

/-- The instruction the decoder reads from the word the opcode table numbers `w`. -/
def decodeTableWord (nbits w : Nat) : Option Instr :=
  match decode (tableBytes nbits w) with
  | .ok i => some i
  | .error _ => none

end Sys2Proof
end

