-- ==== Sys2Proof/Machine/State.lean ====
section
/-! DEFINITION. The state: the block's own elements (spec/10_state.md R21 to R25, complete by R20), its inputs (the command port,
the replies of the Raw Transfer Primitive, the reset input, another user of the primitive) and the event history claims are
stated over (R11, R29); the reasons a step can stop; the state after reset (R37). -/

namespace Sys2Proof.Machine

/-! ### The block's own state -/

/-- The sequencer position (R21): `idle`, or the transaction being issued. -/
inductive Stage where
  | idle
  | dpWr
  | apSel
  | apWr
  | apFlush
  | wwSel
  | wwCsw
  | wwCswFlush
  | wwTar
  | wwDrw
  | wwFlush
  deriving DecidableEq, Repr

/-- An Acknowledge Code (R92): the closed enumeration a raw pattern is decoded to, once (R118). -/
inductive AckCode where
  | ok
  | wait
  | fault
  | protocolError
  deriving DecidableEq, Repr

/-- The complete state of the block (R20 (b)). -/
structure Block where
  /-- The sequencer position (R21). -/
  stage : Stage
  /-- How many invocations of the current transaction were answered WAIT (R22). -/
  attempt : BitVec 4
  /-- Latched `op` (R23). -/
  opQ : BitVec 2
  /-- Latched `addr` (R23). -/
  addrQ : Word
  /-- Latched `data` (R23). -/
  dataQ : Word
  /-- Code of the most recent invocation (R24). -/
  ackQ : AckCode
  /-- A response is pending (R25). -/
  rspValid : Bool
  /-- The response, 1 for success (R25, R94). -/
  rspOk : Bool
  deriving DecidableEq, Repr

/-! ### The interfaces -/

/-- A command record (R80), its three fields kept apart. -/
structure CmdRecord where
  op : BitVec 2
  addr : Word
  data : Word
  deriving DecidableEq, Repr

/-- What the block hands to the primitive: a header and, for a write, a payload (R91, R110). -/
structure Transaction where
  header : Byte
  payload : Option Payload
  deriving DecidableEq, Repr

/-- One invocation with the pattern it was answered with (R11). -/
structure Invocation where
  header : Byte
  payload : Option Payload
  ack : BitVec 3
  deriving DecidableEq, Repr

/-- What the primitive does with one invocation: returns a pattern and 32 data bits (R110), or never returns (U7). -/
inductive Reply where
  | returns (ack : BitVec 3) (rdata : Word)
  | never
  deriving DecidableEq, Repr

/-- The reset input (R220), and where it lands if the block is busy (R221): between two invocations, or while one is in
progress. -/
inductive ResetInput where
  | released
  | betweenInvocations
  | duringInvocation
  deriving DecidableEq, Repr

/-- The event history (R11, R29): invocations and responses, and the events that delimit them. -/
inductive Event where
  /-- A command was accepted (R81). -/
  | accepted (cmd : CmdRecord)
  /-- The block made an invocation (R117). -/
  | invoked (inv : Invocation)
  /-- A command ended with this response (R25). -/
  | responded (ok : Bool)
  /-- Reset caught this invocation in progress; its answer is not used (R221). -/
  | cutShort (tx : Transaction)
  /-- Reset abandoned a command; it gets no response (R221). -/
  | abandoned
  /-- Another agent used the primitive while the block was idle (R223). -/
  | outside (inv : Invocation)
  deriving DecidableEq, Repr

/-! ### The machine -/

/-- The whole machine. -/
structure State where
  /-- The block's own state. -/
  block : Block
  /-- Commands the host has still to get accepted, the one presented on the port first (R81, R204; log 6). -/
  commands : List CmdRecord
  /-- What the primitive does with the coming invocations, in order; when the list is empty it answers a free value
  (R110, U8; log 5). -/
  replies : List Reply
  /-- The reset input, sampled before anything else (R220; log 8). -/
  resetIn : ResetInput
  /-- A transaction that another user of the primitive is asking for (R205, R223, R225; log 7). -/
  outside : Option Transaction
  /-- The model's own counter: how many free answers were drawn (log 5). -/
  draws : Nat
  /-- The model's own record: what happened, oldest first (R29). -/
  history : List Event
  deriving DecidableEq, Repr

/-- Why the machine stops. -/
inductive Fault where
  /-- The primitive never returns from an invocation (U7, R110: "the block would stay in its stage for ever"): no step is
  enabled. Raised by `withAnswer` when the reply is `Reply.never`. Safe: a stuck state (log 16;
  raised by another agent's transaction while the block is idle, log 17). -/
  | primitiveNeverReturns
  deriving DecidableEq, Repr

/-- What the model gives no meaning. -/
inductive Refusal where
  /-- An instruction without a meaning yet; raised by an arm of exec only. Safe. -/
  | notModelled (mnemonic : String)
  /-- A transaction other than the block's own while a command is in progress (U1 `refuse`, R225). Raised by `rawTransfer`
  and by step. Safe: such a system is outside the model. -/
  | foreignTransaction
  /-- A header term whose payload does not fit its direction (R91: the combination never occurs; refusing it is log 15); no bytes
  decode to one. Raised by `rawTransfer`. Safe. -/
  | payloadMismatch
  /-- Bytes of no format (R97). Raised by step for a malformed transaction of another agent only. Safe. -/
  | undecodable (why : DecodeError)
  deriving DecidableEq, Repr

/-! ### Reset -/

/-- R37. `stage`, `attempt` and `rspValid` are the spec's; the spec leaves the other five unspecified and the zeros are the
model's DESIGN CHOICE (log 1). -/
def Block.reset : Block where
  stage := .idle
  attempt := 0#4
  opQ := 0#2
  addrQ := 0#32
  dataQ := 0#32
  ackQ := .ok
  rspValid := false
  rspOk := false

/-- The machine right after reset: the block as R37 says, nothing presented, nothing happened. -/
def State.reset : State where
  block := Block.reset
  commands := []
  replies := []
  resetIn := .released
  outside := none
  draws := 0
  history := []

end Sys2Proof.Machine
end

