-- ==== Sys2Proof/Machine/Operands.lean ====
section
/-! DEFINITION. The values a transaction is built from (spec/30_encoding.md part 3, R93; R9 lists these as the block's only
computations). -/

namespace Sys2Proof.Machine

/-- The register select `a[3:2]` of an address (R86, `REGSEL_MASK`); no other bit of the address reaches a header. -/
def regSel (a : Word) : BitVec 2 :=
  ((a &&& config.regselMask) >>> 2).setWidth 2

/-- `hdr(kind, dir, a)` (R87). -/
def hdrAt (kind : Kind) (dir : Dir) (a : Word) : Byte :=
  hdr kind dir (regSel a)

/-- A DP address (format `DPADDR`, 8 bits) as the 32-bit address the header function reads `a[3:2]` of (R84). -/
def dpAddr (a : Byte) : Word :=
  a.setWidth 32

/-- Format `DPADDR` of a command record: `addr[7:0]` (R80, R84). -/
def dpAddrOf (addr : Word) : Byte :=
  addr.setWidth 8

/-- Format `SELVAL` (R85): `(a & 0xFF000000) | (a & 0x000000F0)`, both fields at their own bit positions. -/
def selval (a : Word) : Word :=
  (a &&& config.apselMask) ||| (a &&& config.apBankselMask)

/-- Format `CSWVAL` (R93): `CSW_BASE | SIZE_32`. -/
def cswval : Word :=
  config.cswBase ||| config.size32

/-- A DP register write: header `hdr(DP, W, a)`, payload `le_bytes(v)` (R130). -/
def dpWrite (a : Byte) (v : Word) : Transaction :=
  ⟨hdrAt .dp .write (dpAddr a), some (leBytes v)⟩

/-- An AP register write: header `hdr(AP, W, a)`, payload `le_bytes(v)` (R142). -/
def apWrite (a v : Word) : Transaction :=
  ⟨hdrAt .ap .write a, some (leBytes v)⟩

/-- The DP SELECT write for AP address `a` (R141). -/
def selectWrite (a : Word) : Transaction :=
  dpWrite config.dpSelect (selval a)

/-- The RDBUFF read-back: `hdr(DP, R, DP_RDBUFF)` with payload `none` (R143, R163). -/
def rdbuffRead : Transaction :=
  ⟨hdrAt .dp .read (dpAddr config.dpRdbuff), none⟩

end Sys2Proof.Machine
end

