-- ==== Sys2Proof/Machine/Flags.lean ====
section
/-! DEFINITION. The block's condition code (R24): the decoding of an acknowledge pattern (R92) and what a code does to the
sequencer (R117). -/

namespace Sys2Proof.Machine

/-- `decode_ack` (R92), total: the five patterns that are no code share `PROTOCOL_ERROR`. -/
def decodeAck (b : BitVec 3) : AckCode :=
  if b = config.ackOk then .ok
  else if b = config.ackWait then .wait
  else if b = config.ackFault then .fault
  else .protocolError

/-- What an answered invocation does to the sequencer (R117, R170). -/
inductive Verdict where
  /-- The same transaction is issued again. -/
  | reissue
  /-- On to the next transaction of the command. -/
  | advance (next : Stage)
  /-- The command ends with this response. -/
  | finish (ok : Bool)
  deriving DecidableEq, Repr

/-- The budget test of R117: `attempt < MAX_ATTEMPTS - 1`. -/
def budgetLeft (attempt : BitVec 4) : Bool :=
  decide (attempt.toNat < config.maxAttempts - 1)

/-- The four branches of R117; `next = none` is its `DONE`. -/
def verdict (c : AckCode) (attempt : BitVec 4) (next : Option Stage) : Verdict :=
  match c with
  | .wait => if budgetLeft attempt then .reissue else .finish false
  | .ok =>
    match next with
    | some st => .advance st
    | none => .finish true
  | .fault => .finish false
  | .protocolError => .finish false

end Sys2Proof.Machine
end

