-- ==== Sys2Proof/Machine/Ops.lean ====
section
/-! DEFINITION. The named operations the meanings are built from: the stage tables (R132, R145, R169), ACCEPT (R81), respond and
abort (R25, R198), INVOKE (R117), one use of the Raw Transfer Primitive (R110), reset (R220, R221). -/

namespace Sys2Proof.Machine

/-! ### The stage tables -/

/-- `xact(stage)`: the header and payload of the transaction being issued, from the rows of R132, R145 and R169; none in
`IDLE` (R26). -/
def xact (b : Block) : Option Transaction :=
  match b.stage with
  | .idle => none
  | .dpWr => some (dpWrite (dpAddrOf b.addrQ) b.dataQ)
  | .apSel => some (selectWrite b.addrQ)
  | .apWr => some (apWrite b.addrQ b.dataQ)
  | .apFlush => some rdbuffRead
  | .wwSel => some (selectWrite config.apCsw)
  | .wwCsw => some (apWrite config.apCsw cswval)
  | .wwCswFlush => some rdbuffRead
  | .wwTar => some (apWrite config.tarSel b.addrQ)
  | .wwDrw => some (apWrite config.drwSel b.dataQ)
  | .wwFlush => some rdbuffRead

/-- `next(stage)` of the same rows, `none` standing for `DONE`. -/
def nextStage (st : Stage) : Option Stage :=
  match st with
  | .idle => none
  | .dpWr => none
  | .apSel => some .apWr
  | .apWr => some .apFlush
  | .apFlush => none
  | .wwSel => some .wwCsw
  | .wwCsw => some .wwCswFlush
  | .wwCswFlush => some .wwTar
  | .wwTar => some .wwDrw
  | .wwDrw => some .wwFlush
  | .wwFlush => none

/-- `busy` (R26): `stage != IDLE`. -/
def Block.busy (b : Block) : Bool :=
  decide (b.stage ≠ .idle)

/-! ### The history -/

/-- Appends events to the history (R29). -/
def State.record (s : State) (es : List Event) : State :=
  { s with history := s.history ++ es }

/-! ### Accepting, responding, aborting -/

/-- The latching half of ACCEPT (R81): the three operand latches, `attempt <- 0`, `rsp_valid <- 0`, and the first stage. -/
def accept (cmd : CmdRecord) (first : Stage) (s : State) : State :=
  { s with
    block := { s.block with
      stage := first, attempt := 0#4, opQ := cmd.op, addrQ := cmd.addr, dataQ := cmd.data, rspValid := false }
    history := s.history ++ [.accepted cmd] }

/-- `respond(b)` (R25): `rsp_valid <- 1`, `rsp_ok <- b`, `stage <- IDLE`. -/
def respond (ok : Bool) (s : State) : State :=
  { s with
    block := { s.block with rspValid := true, rspOk := ok, stage := .idle }
    history := s.history ++ [.responded ok] }

/-- The end of a command in the step that receives its last answer (R117): `respond(b)` and `attempt <- 0`. -/
def finish (ok : Bool) (s : State) : State :=
  let t := respond ok s
  { t with block := { t.block with attempt := 0#4 } }

/-- Abort entry (R198), the block's one way of taking a failure, whatever the cause (R190 to R193): `respond(0)` and
`attempt <- 0`. Nothing is saved and nothing undone, and there is no return operation (R199). -/
def abort (s : State) : State :=
  finish false s

/-- The transition of R117 once the verdict is known. -/
def conclude (v : Verdict) (s : State) : State :=
  match v with
  | .reissue => { s with block := { s.block with attempt := s.block.attempt + 1#4 } }
  | .advance st => { s with block := { s.block with stage := st, attempt := 0#4 } }
  | .finish true => finish true s
  | .finish false => abort s

/-! ### INVOKE -/

/-- The INVOKE step (R117) with the primitive's answer `b`: the invocation is recorded, the pattern decoded once (R118) into
`ack_q`, and the sequencer re-issues, advances, completes or aborts. In `IDLE` there is no invocation and nothing changes (R26). -/
def invoke (b : BitVec 3) (s : State) : State :=
  match xact s.block with
  | none => s
  | some tx =>
    let c := decodeAck b
    conclude (verdict c s.block.attempt (nextStage s.block.stage))
      { s with
        block := { s.block with ackQ := c }
        history := s.history ++ [.invoked ⟨tx.header, tx.payload, b⟩] }

/-! ### The Raw Transfer Primitive -/

/-- What the primitive does with one more invocation: the next listed reply, else a free answer (R110, D23; log 5). -/
def drawReply (s : State) : Reply × State :=
  match s.replies with
  | r :: rs => (r, { s with replies := rs })
  | [] => (.returns (Config.freeAck s.draws) (Config.freeRdata s.draws), { s with draws := s.draws + 1 })

/-- One use of the primitive: with an answer (its read data dropped, R119) `k` says what follows; a primitive that does not
return leaves no step enabled (U7; log 16). -/
def withAnswer (k : BitVec 3 → State → State) (s : State) : Host.Outcome State Fault Refusal :=
  match drawReply s with
  | (.never, _) => .fault .primitiveNeverReturns
  | (.returns b _rdata, t) => .next (k b t)

/-- A transaction on the primitive's interface (R110), by its Register Reference and payload. A payload against its direction
(R91: it never occurs) is refused (log 15). While a command is in progress the primitive is the block's own (R225): its stage's
transaction is the INVOKE step, and any other is refused (U1). While the block is idle a transaction is another agent's (R223):
the primitive answers it, and the block takes no part (R26; log 7). U7 speaks of the block's own invocation; that another
agent's transaction that never returns stops the idle machine too, and that reset alone does not free it (`applyReset`), is the
model's choice (log 17). -/
def rawTransfer (r : RegRef) (p : Option Payload) (s : State) : Host.Outcome State Fault Refusal :=
  if p.isSome = r.dir.bit then .refused .payloadMismatch
  else
    match xact s.block with
    | none => withAnswer (fun b t => t.record [.outside ⟨r.header, p, b⟩]) s
    | some tx => if tx = ⟨r.header, p⟩ then withAnswer invoke s else .refused .foreignTransaction

/-! ### Reset -/

/-- What reset leaves in the history: the invocation it cut short, if any, and the command it abandoned, if any (R221). -/
def resetEvents (s : State) : List Event :=
  match xact s.block with
  | none => []
  | some tx =>
    if s.resetIn = .duringInvocation then [.cutShort tx, .abandoned] else [.abandoned]

/-- The replies left after reset: the answer of an invocation in progress is not used (R221). That those of an idle block stay, a
`.never` among them, is the model's choice (log 8, log 17). -/
def repliesAfterReset (s : State) : List Reply :=
  if s.block.busy && decide (s.resetIn = .duringInvocation) then s.replies.tail else s.replies

/-- Reset (R220, R221): every element of the block takes its reset value, no response is produced, and nothing is sent to the
target (R222). The reset input is consumed (log 8). DESIGN CHOICE (log 17): R37 and R220 do not say what reset does to another
agent's transaction at an idle block's primitive; `outside` and an idle block's replies stay, so that one that never returns
stops the machine again at the step after reset, until the outside world changes those inputs. -/
def applyReset (s : State) : State :=
  { s with
    block := Block.reset
    replies := repliesAfterReset s
    resetIn := .released
    history := s.history ++ resetEvents s }

end Sys2Proof.Machine
end

