-- ==== Sys2Proof/Machine/Acknowledge.lean ====
section
/-! DEFINITION. The eight acknowledge patterns (format ACK, R92): the INVOKE step (R117) of the stage's transaction with this
answer. In `IDLE` nothing was invoked, and a pattern changes nothing (R26). -/

namespace Sys2Proof.Machine

/-- The answer `b` to the transaction the block is issuing (R117). -/
def answered (b : BitVec 3) (s : State) : Host.Outcome State Fault Refusal :=
  .next (invoke b s)

/-- Pattern 0b000: aborts the command (R192). -/
def execAckProtocolError000 (s : State) : Host.Outcome State Fault Refusal :=
  answered 0b000#3 s

/-- Pattern 0b001: the transaction is complete and the sequencer advances or completes (R117). -/
def execAckOk001 (s : State) : Host.Outcome State Fault Refusal :=
  answered 0b001#3 s

/-- Pattern 0b010: re-issue while the budget lasts, else abort (R112, R114). -/
def execAckWait010 (s : State) : Host.Outcome State Fault Refusal :=
  answered 0b010#3 s

/-- Pattern 0b011: aborts the command (R192). -/
def execAckProtocolError011 (s : State) : Host.Outcome State Fault Refusal :=
  answered 0b011#3 s

/-- Pattern 0b100: aborts the command (R191). -/
def execAckFault100 (s : State) : Host.Outcome State Fault Refusal :=
  answered 0b100#3 s

/-- Pattern 0b101: aborts the command (R192). -/
def execAckProtocolError101 (s : State) : Host.Outcome State Fault Refusal :=
  answered 0b101#3 s

/-- Pattern 0b110: aborts the command (R192). -/
def execAckProtocolError110 (s : State) : Host.Outcome State Fault Refusal :=
  answered 0b110#3 s

/-- Pattern 0b111: aborts the command (R192). -/
def execAckProtocolError111 (s : State) : Host.Outcome State Fault Refusal :=
  answered 0b111#3 s

end Sys2Proof.Machine
end

