-- ==== Sys2Proof/Machine/Command.lean ====
section
/-! DEFINITION. The four command records (format CMD): the ACCEPT step (R81, R82). A busy block does not take a command (R204). -/

namespace Sys2Proof.Machine

/-- ACCEPT of a command with its first stage (R81); a busy block is left as it is, as if no command were presented (R204). -/
def acceptIfIdle (cmd : CmdRecord) (first : Stage) (s : State) : Host.Outcome State Fault Refusal :=
  if s.block.busy then .next s else .next (accept cmd first s)

/-- `WRITE_DP` (R81, R130): one transaction, stage `DP_WR` (R132). -/
def execWriteDp (addr data : Word) (s : State) : Host.Outcome State Fault Refusal :=
  acceptIfIdle ⟨0b00#2, addr, data⟩ .dpWr s

/-- `WRITE_AP` (R81, R140): three transactions from `AP_SEL` (R145). -/
def execWriteAp (addr data : Word) (s : State) : Host.Outcome State Fault Refusal :=
  acceptIfIdle ⟨0b01#2, addr, data⟩ .apSel s

/-- `WRITE_WORD` (R81, R165): six transactions from `WW_SEL` (R169). -/
def execWriteWord (addr data : Word) (s : State) : Host.Outcome State Fault Refusal :=
  acceptIfIdle ⟨0b10#2, addr, data⟩ .wwSel s

/-- The reserved command (R82, R194): accepted and completed with `respond(0)` in the same step, with no invocation. -/
def execReserved (addr data : Word) (s : State) : Host.Outcome State Fault Refusal :=
  if s.block.busy then .next s else .next (respond false (accept ⟨0b11#2, addr, data⟩ .idle s))

end Sys2Proof.Machine
end

