-- ==== Sys2Proof/Machine/Header.lean ====
section
/-! DEFINITION. The sixteen Transaction Headers (format HDR, R89): a transaction on the interface to the Raw Transfer Primitive.
Nine can be the block's own, and are then the INVOKE step (R117) with the primitive's next answer. The seven read headers that
no rule of the block produces (R89) can only be another agent's, while the block is idle (R223). -/

namespace Sys2Proof.Machine

/-- Header 0x81: `WRITE_DP` to DP address 0x00 (R132). -/
def execHdrDpW0 (payload : Option Payload) (s : State) : Host.Outcome State Fault Refusal :=
  rawTransfer ⟨.dp, .write, 0b00#2⟩ payload s

/-- Header 0xA9: `WRITE_DP` to DP address 0x04 (R132). -/
def execHdrDpW4 (payload : Option Payload) (s : State) : Host.Outcome State Fault Refusal :=
  rawTransfer ⟨.dp, .write, 0b01#2⟩ payload s

/-- Header 0xB1: the SELECT write of `WRITE_AP` and `WRITE_WORD`, or `WRITE_DP` to 0x08 (R132, R145, R169). -/
def execHdrDpW8 (payload : Option Payload) (s : State) : Host.Outcome State Fault Refusal :=
  rawTransfer ⟨.dp, .write, 0b10#2⟩ payload s

/-- Header 0x99: `WRITE_DP` to DP address 0x0C (R132). -/
def execHdrDpWC (payload : Option Payload) (s : State) : Host.Outcome State Fault Refusal :=
  rawTransfer ⟨.dp, .write, 0b11#2⟩ payload s

/-- Header 0xA5: never the block's own (R89). -/
def execHdrDpR0 (payload : Option Payload) (s : State) : Host.Outcome State Fault Refusal :=
  rawTransfer ⟨.dp, .read, 0b00#2⟩ payload s

/-- Header 0x8D: never the block's own (R89). -/
def execHdrDpR4 (payload : Option Payload) (s : State) : Host.Outcome State Fault Refusal :=
  rawTransfer ⟨.dp, .read, 0b01#2⟩ payload s

/-- Header 0x95: never the block's own (R89). -/
def execHdrDpR8 (payload : Option Payload) (s : State) : Host.Outcome State Fault Refusal :=
  rawTransfer ⟨.dp, .read, 0b10#2⟩ payload s

/-- Header 0xBD: the RDBUFF read-back (R143, R163). -/
def execHdrDpRC (payload : Option Payload) (s : State) : Host.Outcome State Fault Refusal :=
  rawTransfer ⟨.dp, .read, 0b11#2⟩ payload s

/-- Header 0xA3: register select 0b00, CSW in `WRITE_WORD` (R145, R169). -/
def execHdrApW0 (payload : Option Payload) (s : State) : Host.Outcome State Fault Refusal :=
  rawTransfer ⟨.ap, .write, 0b00#2⟩ payload s

/-- Header 0x8B: register select 0b01, TAR in `WRITE_WORD` (R145, R169). -/
def execHdrApW4 (payload : Option Payload) (s : State) : Host.Outcome State Fault Refusal :=
  rawTransfer ⟨.ap, .write, 0b01#2⟩ payload s

/-- Header 0x93: register select 0b10 (R145). -/
def execHdrApW8 (payload : Option Payload) (s : State) : Host.Outcome State Fault Refusal :=
  rawTransfer ⟨.ap, .write, 0b10#2⟩ payload s

/-- Header 0xBB: register select 0b11, DRW in `WRITE_WORD` (R145, R169). -/
def execHdrApWC (payload : Option Payload) (s : State) : Host.Outcome State Fault Refusal :=
  rawTransfer ⟨.ap, .write, 0b11#2⟩ payload s

/-- Header 0x87: never the block's own (R89). -/
def execHdrApR0 (payload : Option Payload) (s : State) : Host.Outcome State Fault Refusal :=
  rawTransfer ⟨.ap, .read, 0b00#2⟩ payload s

/-- Header 0xAF: never the block's own (R89). -/
def execHdrApR4 (payload : Option Payload) (s : State) : Host.Outcome State Fault Refusal :=
  rawTransfer ⟨.ap, .read, 0b01#2⟩ payload s

/-- Header 0xB7: never the block's own (R89). -/
def execHdrApR8 (payload : Option Payload) (s : State) : Host.Outcome State Fault Refusal :=
  rawTransfer ⟨.ap, .read, 0b10#2⟩ payload s

/-- Header 0x9F: never the block's own (R89). -/
def execHdrApRC (payload : Option Payload) (s : State) : Host.Outcome State Fault Refusal :=
  rawTransfer ⟨.ap, .read, 0b11#2⟩ payload s

end Sys2Proof.Machine
end

