-- ==== Sys2Proof/Machine/Dispatch.lean ====
section
/-! DEFINITION. One arm per constructor of Instr: a direct call of its meaning. -/

namespace Sys2Proof.Machine

def exec (i : Instr) (s : State) : Host.Outcome State Fault Refusal :=
  match i with
  -- the command records (R81, R82)
  | .writeDp addr data => Sys2Proof.Machine.execWriteDp addr data s
  | .writeAp addr data => Sys2Proof.Machine.execWriteAp addr data s
  | .writeWord addr data => Sys2Proof.Machine.execWriteWord addr data s
  | .reserved addr data => Sys2Proof.Machine.execReserved addr data s
  -- the Transaction Headers (R89)
  | .hdrDpW0 payload => Sys2Proof.Machine.execHdrDpW0 payload s
  | .hdrDpW4 payload => Sys2Proof.Machine.execHdrDpW4 payload s
  | .hdrDpW8 payload => Sys2Proof.Machine.execHdrDpW8 payload s
  | .hdrDpWC payload => Sys2Proof.Machine.execHdrDpWC payload s
  | .hdrDpR0 payload => Sys2Proof.Machine.execHdrDpR0 payload s
  | .hdrDpR4 payload => Sys2Proof.Machine.execHdrDpR4 payload s
  | .hdrDpR8 payload => Sys2Proof.Machine.execHdrDpR8 payload s
  | .hdrDpRC payload => Sys2Proof.Machine.execHdrDpRC payload s
  | .hdrApW0 payload => Sys2Proof.Machine.execHdrApW0 payload s
  | .hdrApW4 payload => Sys2Proof.Machine.execHdrApW4 payload s
  | .hdrApW8 payload => Sys2Proof.Machine.execHdrApW8 payload s
  | .hdrApWC payload => Sys2Proof.Machine.execHdrApWC payload s
  | .hdrApR0 payload => Sys2Proof.Machine.execHdrApR0 payload s
  | .hdrApR4 payload => Sys2Proof.Machine.execHdrApR4 payload s
  | .hdrApR8 payload => Sys2Proof.Machine.execHdrApR8 payload s
  | .hdrApRC payload => Sys2Proof.Machine.execHdrApRC payload s
  -- the acknowledge patterns (R92)
  | .ackProtocolError000 => Sys2Proof.Machine.execAckProtocolError000 s
  | .ackOk001 => Sys2Proof.Machine.execAckOk001 s
  | .ackWait010 => Sys2Proof.Machine.execAckWait010 s
  | .ackProtocolError011 => Sys2Proof.Machine.execAckProtocolError011 s
  | .ackFault100 => Sys2Proof.Machine.execAckFault100 s
  | .ackProtocolError101 => Sys2Proof.Machine.execAckProtocolError101 s
  | .ackProtocolError110 => Sys2Proof.Machine.execAckProtocolError110 s
  | .ackProtocolError111 => Sys2Proof.Machine.execAckProtocolError111 s

end Sys2Proof.Machine
end

