-- ==== Sys2Proof/Machine/Fetch.lean ====
section
/-! DEFINITION. Where the next word comes from: another agent's transaction, the command port, the primitive's answer, or the
transaction of the current stage (spec/20_memory.md R66, R21: `stage` is the counterpart of a program counter; log 2). Also how
the outside world changes the inputs between steps, and how a word is put where the next step fetches it. -/

namespace Sys2Proof.Machine

/-- The bytes of a presented command record (R80). -/
def CmdRecord.bytes (r : CmdRecord) : List Byte :=
  commandBytes r.op r.addr r.data

/-- The bytes of a transaction: header, then payload if any (R91). -/
def Transaction.bytes (t : Transaction) : List Byte :=
  transactionBytes t.header t.payload

/-- Another agent asks for the primitive while a command is in progress (R225, U1). -/
def intrusion (s : State) : Bool :=
  s.outside.isSome && s.block.busy

/-- The next word, read by the decoder of its port's format; `none` when an idle block has nothing presented (R26). Idle: the
command presented (R81). Busy: the pattern the primitive returns, or, when no returned pattern is listed, the stage's
transaction, whose answer its meaning draws. -/
def fetch (s : State) : Option (Except DecodeError Instr) :=
  match s.outside with
  | some t => some (decodeTransaction t.header t.payload)
  | none =>
    match xact s.block with
    | none =>
      match s.commands with
      | [] => none
      | r :: _ => some (decode r.bytes)
    | some tx =>
      match s.replies with
      | .returns b _rdata :: _ => some (decode (ackBytes b))
      | _ => some (decodeTransaction tx.header tx.payload)

/-- The state with the fetched word taken off its port; the 32 data bits of a taken answer go nowhere (R119). -/
def taken (s : State) : State :=
  match s.outside with
  | some _ => { s with outside := none }
  | none =>
    match xact s.block with
    | none => { s with commands := s.commands.tail }
    | some _ =>
      match s.replies with
      | .returns _ _ :: rs => { s with replies := rs }
      | _ => s

/-! ### The outside world, between steps -/

/-- The host presents one more command, after those it has already lined up (R81, log 6). -/
def State.present (s : State) (cmd : CmdRecord) : State :=
  { s with commands := s.commands ++ [cmd] }

/-- The host withdraws the command on the port; if the block was busy it is never seen (R204). -/
def State.withdraw (s : State) : State :=
  { s with commands := s.commands.tail }

/-- Reset is applied (R220). -/
def State.assertReset (s : State) (how : ResetInput) : State :=
  { s with resetIn := how }

/-! ### Placing a word where the next step fetches it (log 2) -/

/-- A command on the port of an idle block. -/
def placeCommand (cmd : CmdRecord) (s : State) : State :=
  { s with
    block := { s.block with stage := .idle }
    commands := cmd :: s.commands
    resetIn := .released
    outside := none }

/-- An answer to the transaction in progress; an idle block is first put into a `WRITE_DP`. -/
def placeAnswer (b : BitVec 3) (s : State) : State :=
  { s with
    block := if s.block.busy then s.block else { s.block with stage := .dpWr, opQ := 0b00#2 }
    replies := .returns b 0#32 :: s.replies
    resetIn := .released
    outside := none }

/-- A block at stage `st` of command `op` with these operand latches, the primitive's answer left to the free value. -/
def placeStage (st : Stage) (op : BitVec 2) (addr data : Word) (s : State) : State :=
  { s with
    block := { s.block with stage := st, opQ := op, addrQ := addr, dataQ := data }
    replies := []
    resetIn := .released
    outside := none }

/-- A transaction that only another agent can make, on an idle block's primitive. -/
def placeOutside (tx : Transaction) (s : State) : State :=
  { s with
    block := { s.block with stage := .idle }
    resetIn := .released
    outside := some tx }

/-- A transaction: as the block's own where a stage issues it (R132, R145), else as another agent's. -/
def placeTransaction (h : Byte) (p : Option Payload) (s : State) : State :=
  let tx : Transaction := ⟨h, p⟩
  if xact s.block = some tx then
    placeStage s.block.stage s.block.opQ s.block.addrQ s.block.dataQ s
  else
    match decodeHeader h, p with
    | .ok ⟨.dp, .write, sel⟩, some q => placeStage .dpWr 0b00#2 (sel.setWidth 32 <<< 2) (ofLeBytes q) s
    | .ok ⟨.ap, .write, sel⟩, some q => placeStage .apWr 0b01#2 (sel.setWidth 32 <<< 2) (ofLeBytes q) s
    | .ok ⟨.dp, .read, sel⟩, none =>
      if sel = 0b11#2 then placeStage .apFlush 0b01#2 s.block.addrQ s.block.dataQ s else placeOutside tx s
    | _, _ => placeOutside tx s

/-- A word's bytes, put where the next step fetches them; bytes of no format change nothing. -/
def placeBytes (bytes : List Byte) (s : State) : State :=
  match bytes with
  | [b] => if b.toNat < 8 then placeAnswer (b.setWidth 3) s else placeTransaction b none s
  | [h, p0, p1, p2, p3] => placeTransaction h (some ⟨p0, p1, p2, p3⟩) s
  | [d0, d1, d2, d3, a0, a1, a2, a3, op] =>
    if op.toNat < 4 then
      placeCommand ⟨op.setWidth 2, ofLeBytes ⟨a0, a1, a2, a3⟩, ofLeBytes ⟨d0, d1, d2, d3⟩⟩ s
    else s
  | _ => s

end Sys2Proof.Machine
end

