-- ==== Sys2Proof/Machine/Step.lean ====
section
/-! DEFINITION. One step (spec/00_scope.md R10: ACCEPT or INVOKE), with the reset input sampled first (R220). -/

namespace Sys2Proof.Machine

/-- One step. Reset comes before everything (R220). A transaction of another agent during a command is refused (U1). Otherwise
the next word is fetched, decoded (both `fetch`) and executed; an idle block with nothing presented stays as it is (R26). -/
def step (s : State) : Host.Outcome State Fault Refusal :=
  if s.resetIn = .released then
    if intrusion s then .refused .foreignTransaction
    else
      match fetch s with
      | none => .next s
      | some (.error e) => .refused (.undecodable e)
      | some (.ok i) => exec i (taken s)
  else .next (applyReset s)

/-- `s` with the word the opcode table numbers `w` put where the next step fetches it (log 2). -/
def State.withFetchWord (s : State) (nbits w : Nat) : State :=
  placeBytes (tableBytes nbits w) s

end Sys2Proof.Machine
end

