-- ==== Sys2Proof/Machine/Calls.lean ====
section
/-! DEFINITION. The call formulation: the Retrying Transfer as the bounded loop of R111 and the four composite operations nested
as R99 writes them, over a list of the primitive's answers. `none` means the list ended before the operation did. R117 says the
step formulation gives the same trace and the same result. -/

namespace Sys2Proof.Machine

/-- What a call gives: its result, the invocations it made in order, and the answers it did not use. -/
structure CallResult (ρ : Type) where
  value : ρ
  invocations : List Invocation
  rest : List (BitVec 3)
  deriving DecidableEq, Repr

/-- The loop of R111 with `attempts` invocations left: any code but WAIT returns at once, the last WAIT is returned. -/
def xferLoop (tx : Transaction) : Nat → List (BitVec 3) → Option (CallResult AckCode)
  | 0, bs => some ⟨.wait, [], bs⟩
  | _ + 1, [] => none
  | n + 1, b :: bs =>
    let inv : Invocation := ⟨tx.header, tx.payload, b⟩
    if decodeAck b = .wait then
      match xferLoop tx n bs with
      | none => none
      | some r => some { r with invocations := inv :: r.invocations }
    else some ⟨decodeAck b, [inv], bs⟩

/-- `XFER(h, p)` (R111): `for i in 1 .. MAX_ATTEMPTS`. -/
def xfer (tx : Transaction) (answers : List (BitVec 3)) : Option (CallResult AckCode) :=
  xferLoop tx config.maxAttempts answers

/-- A transaction whose success is `XFER(h, p) == OK` (R130, R190). -/
def xferOk (tx : Transaction) (answers : List (BitVec 3)) : Option (CallResult Bool) :=
  match xfer tx answers with
  | none => none
  | some r => some ⟨decide (r.value = .ok), r.invocations, r.rest⟩

/-- One operation, then another; "stop with `false` at the first that is not `OK`" (R99). -/
def andThen (first second : List (BitVec 3) → Option (CallResult Bool)) (answers : List (BitVec 3)) :
    Option (CallResult Bool) :=
  match first answers with
  | none => none
  | some r =>
    if r.value then
      match second r.rest with
      | none => none
      | some q => some { q with invocations := r.invocations ++ q.invocations }
    else some r

/-- `write_dp(a, v)` (R99, R130). -/
def writeDpCall (a : Byte) (v : Word) : List (BitVec 3) → Option (CallResult Bool) :=
  xferOk (dpWrite a v)

/-- `write_ap(a, v)` (R99, R140): SELECT through `write_dp`, the AP write, the flush. -/
def writeApCall (a v : Word) : List (BitVec 3) → Option (CallResult Bool) :=
  andThen (writeDpCall config.dpSelect (selval a)) (andThen (xferOk (apWrite a v)) (xferOk rdbuffRead))

/-- `write_data(a, d)` (R99, R160): TAR, DRW, one flush, and no SELECT write. -/
def writeDataCall (a d : Word) : List (BitVec 3) → Option (CallResult Bool) :=
  andThen (xferOk (apWrite config.tarSel a)) (andThen (xferOk (apWrite config.drwSel d)) (xferOk rdbuffRead))

/-- `write_word(a, v)` (R99, R165): the CSW configuration through `write_ap`, then `write_data`. -/
def writeWordCall (a v : Word) : List (BitVec 3) → Option (CallResult Bool) :=
  andThen (writeApCall config.apCsw cswval) (writeDataCall a v)

/-- The reserved command: `false` with no invocation (R82). -/
def reservedCall (answers : List (BitVec 3)) : Option (CallResult Bool) :=
  some ⟨false, [], answers⟩

/-- The operation a command record names (R81). -/
def commandCall (cmd : CmdRecord) : List (BitVec 3) → Option (CallResult Bool) :=
  match cmd.op.getLsbD 1, cmd.op.getLsbD 0 with
  | false, false => writeDpCall (dpAddrOf cmd.addr) cmd.data
  | false, true => writeApCall cmd.addr cmd.data
  | true, false => writeWordCall cmd.addr cmd.data
  | true, true => reservedCall

end Sys2Proof.Machine
end

