-- ==== Sys2Proof/Safety.lean ====
section
/-! DEFINITION. The terms claims are stated in: the legal block states (R22, R21, R23), what a history must look like (R22, R61,
R89, R91, R134), the document's names for the stages (R38), the duration of a command (R232), and what a target must do for a
claim about its memory (R68). None of it is read by a step. -/

namespace Sys2Proof.Machine

/-! ### Legal block states -/

/-- The `op` of the command that owns a stage (the table of R21). -/
def Stage.owner (st : Stage) : Option (BitVec 2) :=
  match st with
  | .idle => none
  | .dpWr => some 0b00#2
  | .apSel => some 0b01#2
  | .apWr => some 0b01#2
  | .apFlush => some 0b01#2
  | .wwSel => some 0b10#2
  | .wwCsw => some 0b10#2
  | .wwCswFlush => some 0b10#2
  | .wwTar => some 0b10#2
  | .wwDrw => some 0b10#2
  | .wwFlush => some 0b10#2

/-- `attempt` is in 0 to 9 (R22) and 0 when idle (R37, R117, R198), and a busy stage belongs to the latched command (R21, R23). -/
def Block.legal (b : Block) : Bool :=
  decide (b.attempt.toNat ≤ 9) && (b.busy || decide (b.attempt = 0#4)) &&
    (!b.busy || decide (b.stage.owner = some b.opQ))

/-- The same machine but for what R37 leaves unspecified and R20 (c) lets no later command see: equal inputs, and blocks equal in
`stage`, `attempt` and `rspValid`, in the latches while busy (R23), and in `rspOk` while it has a meaning (R25). `ackQ` (R24), the
latches when idle and the history may differ. -/
def State.agreesWith (s t : State) : Prop :=
  s.block.stage = t.block.stage ∧ s.block.attempt = t.block.attempt ∧ s.block.rspValid = t.block.rspValid ∧
  (s.block.stage ≠ .idle →
    s.block.opQ = t.block.opQ ∧ s.block.addrQ = t.block.addrQ ∧ s.block.dataQ = t.block.dataQ) ∧
  (s.block.rspValid = true → s.block.rspOk = t.block.rspOk) ∧
  s.commands = t.commands ∧ s.replies = t.replies ∧ s.resetIn = t.resetIn ∧ s.outside = t.outside ∧
  s.draws = t.draws

/-! ### Histories -/

/-- The nine headers the block can emit (R89). -/
def emittedHeaders : List Byte :=
  [0x81#8, 0xA9#8, 0xB1#8, 0x99#8, 0xBD#8, 0xA3#8, 0x8B#8, 0x93#8, 0xBB#8]

/-- One of the nine headers (R89), with a payload exactly when it is a write (R91). -/
def Transaction.emittable (t : Transaction) : Bool :=
  decide (t.header ∈ emittedHeaders) && (t.payload.isSome == !t.header.getLsbD config.layout.dirBit)

/-- The same of an event: of the block's own invocations only. -/
def Event.emittable (e : Event) : Bool :=
  match e with
  | .invoked inv => Transaction.emittable ⟨inv.header, inv.payload⟩
  | .cutShort tx => tx.emittable
  | _ => true

/-- The event of the stage's transaction answered WAIT. -/
def waitEvent (tx : Transaction) : Event :=
  .invoked ⟨tx.header, tx.payload, config.ackWait⟩

/-- How many invocations of `tx` answered WAIT stand at the very end of a history. -/
def trailingWaits (tx : Transaction) (h : List Event) : Nat :=
  (h.reverse.takeWhile (fun e => decide (e = waitEvent tx))).length

/-- R22: while busy, `attempt` is the number of invocations of the current transaction already answered WAIT, and they stand
consecutively at the end of the history (R62). -/
def State.attemptCounts (s : State) : Bool :=
  match xact s.block with
  | none => true
  | some tx => decide (trailingWaits tx s.history = s.block.attempt.toNat)

def Event.isAccepted (e : Event) : Bool :=
  match e with
  | .accepted _ => true
  | _ => false

/-- A response, or a command abandoned by reset in place of one (R221). -/
def Event.endsCommand (e : Event) : Bool :=
  match e with
  | .responded _ => true
  | .abandoned => true
  | _ => false

def Event.isInvoked (e : Event) : Bool :=
  match e with
  | .invoked _ => true
  | _ => false

/-- Every accepted command but the one in progress has ended exactly once (R134, R148, R173: "Exactly one response"). -/
def State.accounted (s : State) : Bool :=
  decide (s.history.countP Event.isAccepted =
    s.history.countP Event.endsCommand + s.block.busy.toNat)

/-! ### The document's state names (R38) -/

/-- The document's six-state machine for `write_word`. -/
inductive DocState where
  | idle
  | cswConfigured
  | addressSet
  | dataWritten
  | flushed
  | aborted
  deriving DecidableEq, Repr

/-- The correspondence of R38. In `IDLE` its table's rows overlap: `Idle` asks only for `IDLE` before ACCEPT, `Flushed` and
`Aborted` only for `IDLE` with a response. DESIGN CHOICE (log 18): the idle block is `Flushed` or `Aborted` while it holds the
response of a `WRITE_WORD` (`opQ = 0b10`, read here although the block is idle) and `Idle` otherwise, after any other command's
response too; and the stages of the other two commands have no state of the document. -/
def Block.docState (b : Block) : Option DocState :=
  match b.stage with
  | .idle =>
    if b.rspValid && decide (b.opQ = 0b10#2) then
      if b.rspOk then some .flushed else some .aborted
    else some .idle
  | .wwSel => some .idle
  | .wwCsw => some .idle
  | .wwCswFlush => some .idle
  | .wwTar => some .cswConfigured
  | .wwDrw => some .addressSet
  | .wwFlush => some .dataWritten
  | .dpWr => none
  | .apSel => none
  | .apWr => none
  | .apFlush => none

/-! ### Time (R232) -/

/-- The duration of a command: its number of invocations times `T_XFER`. -/
def duration (invocations : List Invocation) : Nat :=
  invocations.length * Config.tXfer

/-! ### Replies -/

/-- Replies that return these patterns and data (R110). -/
def returning (answers : List (BitVec 3 × Word)) : List Reply :=
  answers.map (fun a => .returns a.1 a.2)

/-- The premise "every invocation returns" (R234, U7). -/
def State.primitiveReturns (s : State) : Bool :=
  s.replies.all (fun r => decide (r ≠ .never))

/-! ### A target, as an explicit hypothesis (R68) -/

/-- What a claim about target memory must assume of a target whose state changes by `act` at each invocation: how SELECT, TAR
and DRW respond (glossary, R52, R53), and that an invocation not answered OK changes nothing (G9, N25). The spec gives the
target no behaviour (R30, D24); this is a premise a claim names and not part of the machine (log 11). DESIGN CHOICE (log 19): R57
calls AP writes posted and the RDBUFF read what collects and clears their pending acknowledge, and does not say when a posted
write takes effect; in this premise the OK of the SELECT, TAR or DRW write itself makes it take effect, the DRW write's OK
stores the word, and an OK RDBUFF read changes nothing. DESIGN CHOICE (log 20): the spec leaves open what a target does with a
32-bit access at an unaligned address (R56, N11) and what a CSW bit does on it (R68, N12); in this premise an OK DRW write
stores the whole word at any value of TAR, unaligned ones included, and whatever CSW holds, its size field playing no part. DESIGN
CHOICE (log 21): what a target does with SELECT bits 3:0 and 23:8 is open (R31, N12); in this premise SELECT, and TAR too, holds
every written 32-bit value whole, those bits included (`selectWritten`, `tarWritten`), and a CSW, TAR or DRW write leaves SELECT
as it is. -/
structure WordTarget {σ : Type} (act : σ → Invocation → σ) (select tar : σ → Word) (mem : σ → Word → Word) : Prop where
  notTaken : ∀ x i, i.ack ≠ config.ackOk → act x i = x
  selectWritten : ∀ x v, select (act x ⟨0xB1#8, some (leBytes v), config.ackOk⟩) = v
  cswWritten : ∀ x v, select (act x ⟨0xA3#8, some (leBytes v), config.ackOk⟩) = select x
  tarWritten : ∀ x v, select x = 0#32 →
    select (act x ⟨0x8B#8, some (leBytes v), config.ackOk⟩) = 0#32 ∧
      tar (act x ⟨0x8B#8, some (leBytes v), config.ackOk⟩) = v
  drwWritten : ∀ x v, select x = 0#32 →
    select (act x ⟨0xBB#8, some (leBytes v), config.ackOk⟩) = 0#32 ∧
      mem (act x ⟨0xBB#8, some (leBytes v), config.ackOk⟩) (tar x) = v
  rdbuffRead : ∀ x, act x ⟨0xBD#8, none, config.ackOk⟩ = x

end Sys2Proof.Machine
end

