-- ==== Sys2Proof/Certificates/Slice0/Obligations.lean ====
section
/-! DEFINITION. The statements for the provers. Each docstring names the rule of spec/ it formalises, or says what of it is the
model's own choice and in which log entry that stands. -/

open Sys2Proof Sys2Proof.Machine

/-! ### Encoding -/

/-- R81, R89, R91, R92 (formats CMD, HDR and ACK): no bit of an encoding is dropped, for every instruction of the table and every
operand value. The byte strings themselves are the model's (log 3). -/
def Obligations.DecodingAnEncodedInstructionGivesItBack : Prop :=
  ∀ i : Instr, i.wellFormed = true → decode (encode i) = .ok i

/-- R96, R97: every accepted byte string is the encoding of the one instruction it decodes to, and that instruction is well
formed; so no two byte strings share an instruction and the reserved ones are rejected. -/
def Obligations.AcceptedBytesAreTheEncodingOfTheirInstruction : Prop :=
  ∀ (bytes : List Byte) (i : Instr), decode bytes = .ok i → i.wellFormed = true ∧ encode i = bytes

/-- Words written out from the tables of R80, R81, R89 and R92, as the opcode table numbers them. -/
def Obligations.SpecWordsDecodeToTheirRows : Prop :=
  decodeTableWord 72 0x00000000450000000 = some (.writeDp 0x00000004#32 0x50000000#32) ∧
  decodeTableWord 72 0x1010000F800000001 = some (.writeAp 0x010000F8#32 0x00000001#32) ∧
  decodeTableWord 72 0x220000000DEADBEEF = some (.writeWord 0x20000000#32 0xDEADBEEF#32) ∧
  decodeTableWord 72 0x30000000000000000 = some (.reserved 0#32 0#32) ∧
  decodeTableWord 8 0xB1 = some (.hdrDpW8 (some ⟨0#8, 0#8, 0#8, 0#8⟩)) ∧
  decodeTableWord 8 0xBD = some (.hdrDpRC none) ∧
  decodeTableWord 8 0xBB = some (.hdrApWC (some ⟨0#8, 0#8, 0#8, 0#8⟩)) ∧
  decodeTableWord 8 0x87 = some (.hdrApR0 none) ∧
  decodeTableWord 8 0b001 = some .ackOk001 ∧
  decodeTableWord 8 0b100 = some .ackFault100 ∧
  decodeTableWord 8 0x80 = none ∧
  decodeTableWord 8 0xA1 = none

/-- R88: the parity bit is the exclusive-OR of the four variable bits, so that bits 1 to 5 of every header hold an even number
of ones; with R87's places for the other bits. -/
def Obligations.HeaderBitsFollowTheRequestPacket : Prop :=
  ∀ (k : Kind) (d : Dir) (sel : BitVec 2),
    let h := hdr k d sel
    h.getLsbD 0 = true ∧ h.getLsbD 1 = decide (k = .ap) ∧ h.getLsbD 2 = decide (d = .read) ∧
    h.getLsbD 3 = sel.getLsbD 0 ∧ h.getLsbD 4 = sel.getLsbD 1 ∧
    h.getLsbD 5 = (h.getLsbD 1 ^^ h.getLsbD 2 ^^ h.getLsbD 3 ^^ h.getLsbD 4) ∧
    h.getLsbD 6 = false ∧ h.getLsbD 7 = true ∧
    ([1, 2, 3, 4, 5].countP (fun n => h.getLsbD n)) % 2 = 0

/-- R85: `selval(a) = (a & 0xFF000000) | (a & 0x000000F0)`, bit by bit, with the rule's three examples. -/
def Obligations.SelectValueKeepsApselAndBankOnly : Prop :=
  (∀ (a : Word) (n : Nat),
    (selval a).getLsbD n = (decide ((24 ≤ n ∧ n ≤ 31) ∨ (4 ≤ n ∧ n ≤ 7)) && a.getLsbD n)) ∧
  selval 0x00000000#32 = 0x00000000#32 ∧ selval 0x010000F8#32 = 0x010000F0#32 ∧
  selval 0xFFFFFFFF#32 = 0xFF0000F0#32

/-- R90: four bytes, least significant first, with the rule's two examples; the bytes and the 32-bit value are two views of the
same thing. -/
def Obligations.PayloadIsLittleEndian : Prop :=
  (∀ (v : Word) (n : Nat), n < 8 →
    (leBytes v).b0.getLsbD n = v.getLsbD n ∧ (leBytes v).b1.getLsbD n = v.getLsbD (8 + n) ∧
    (leBytes v).b2.getLsbD n = v.getLsbD (16 + n) ∧ (leBytes v).b3.getLsbD n = v.getLsbD (24 + n)) ∧
  (∀ v : Word, ofLeBytes (leBytes v) = v) ∧ (∀ p : Payload, leBytes (ofLeBytes p) = p) ∧
  leBytes 0x12345678#32 = ⟨0x78#8, 0x56#8, 0x34#8, 0x12#8⟩ ∧
  leBytes 0xDEADBEEF#32 = ⟨0xEF#8, 0xBE#8, 0xAD#8, 0xDE#8⟩

/-- R93: the CSW value, its payload, and that its two parts share no bit. -/
def Obligations.CswValueIsOneConstant : Prop :=
  cswval = 0x23000052#32 ∧ leBytes cswval = ⟨0x52#8, 0x00#8, 0x00#8, 0x23#8⟩ ∧
  config.cswBase &&& config.size32 = 0#32 ∧ config.cswBase &&& 0x7#32 = 0#32

/-- R92: the table of acknowledge patterns; `decode_ack` is total and five patterns share `PROTOCOL_ERROR`. The last clause is
the table's last column: what each code does at a transaction that is not the command's last. -/
def Obligations.AcknowledgePatternsDecode : Prop :=
  decodeAck 0b001#3 = .ok ∧ decodeAck 0b010#3 = .wait ∧ decodeAck 0b100#3 = .fault ∧
  (∀ b : BitVec 3, b ≠ 0b001#3 → b ≠ 0b010#3 → b ≠ 0b100#3 → decodeAck b = .protocolError) ∧
  (∀ (a : BitVec 4) (st : Stage), verdict .ok a (some st) = .advance st ∧
    (a.toNat < 9 → verdict .wait a (some st) = .reissue) ∧
    (¬ a.toNat < 9 → verdict .wait a (some st) = .finish false) ∧
    verdict .fault a (some st) = .finish false ∧ verdict .protocolError a (some st) = .finish false)

/-! ### The command interface -/

/-- R81: ACCEPT. Each command, on an idle block, latches the record, clears `attempt` and `rsp_valid`, goes to the command's first
stage and makes no invocation; nothing else changes. The reserved one (R82) is completed with `respond(0)` in the same step. -/
def Obligations.IdleBlockAcceptsEachCommand : Prop :=
  ∀ (s : State) (a d : Word), s.block.stage = .idle →
    exec (.writeDp a d) s = .next { s with
      block := { s.block with stage := .dpWr, attempt := 0#4, opQ := 0b00#2, addrQ := a, dataQ := d, rspValid := false }
      history := s.history ++ [.accepted ⟨0b00#2, a, d⟩] } ∧
    exec (.writeAp a d) s = .next { s with
      block := { s.block with stage := .apSel, attempt := 0#4, opQ := 0b01#2, addrQ := a, dataQ := d, rspValid := false }
      history := s.history ++ [.accepted ⟨0b01#2, a, d⟩] } ∧
    exec (.writeWord a d) s = .next { s with
      block := { s.block with stage := .wwSel, attempt := 0#4, opQ := 0b10#2, addrQ := a, dataQ := d, rspValid := false }
      history := s.history ++ [.accepted ⟨0b10#2, a, d⟩] } ∧
    exec (.reserved a d) s = .next { s with
      block := { s.block with
        stage := .idle, attempt := 0#4, opQ := 0b11#2, addrQ := a, dataQ := d, rspValid := true, rspOk := false }
      history := s.history ++ [.accepted ⟨0b11#2, a, d⟩, .responded false] }

/-- R26: `busy` is `stage != IDLE`; a busy block takes no command; an idle one with no command presented, and no reset, keeps
its whole state. -/
def Obligations.BusyTakesNoCommandAndIdleWaits : Prop :=
  (∀ b : Block, b.busy = true ↔ b.stage ≠ .idle) ∧
  (∀ (s : State) (a d : Word), s.block.busy = true →
    exec (.writeDp a d) s = .next s ∧ exec (.writeAp a d) s = .next s ∧
    exec (.writeWord a d) s = .next s ∧ exec (.reserved a d) s = .next s) ∧
  (∀ s : State, s.block.stage = .idle → s.resetIn = .released → s.commands = [] → s.outside = none →
    step s = .next s) ∧
  (∀ s t : State, s.block.stage = .idle → s.resetIn = .released → s.commands = [] → step s = .next t →
    t.block = s.block ∧ t.history.countP Event.isInvoked = s.history.countP Event.isInvoked)

/-- R204, R66: while a command is in progress the command port has no influence on the step, is left as it is, and no response
or acceptance is produced for what it presents. -/
def Obligations.CommandPortIsIgnoredWhileBusy : Prop :=
  ∀ (s : State) (cs : List CmdRecord), s.block.stage ≠ .idle →
    (∀ t, step s = .next t → t.commands = s.commands ∧ step { s with commands := cs } = .next { t with commands := cs }) ∧
    (∀ f, step s = .fault f → step { s with commands := cs } = .fault f) ∧
    (∀ r, step s = .refused r → step { s with commands := cs } = .refused r) ∧
    (∀ t, step s = .next t → s.resetIn = .released →
      t.history.countP Event.isAccepted = s.history.countP Event.isAccepted)

/-! ### INVOKE -/

/-- R117, the OK branches: the answer 0b001 moves to the next stage with a fresh attempt count, or, after the last stage,
performs `respond(1)`. -/
def Obligations.OkAdvancesOrCompletes : Prop :=
  ∀ (s : State) (tx : Transaction), xact s.block = some tx →
    (∀ st, nextStage s.block.stage = some st → exec .ackOk001 s = .next { s with
      block := { s.block with stage := st, attempt := 0#4, ackQ := .ok }
      history := s.history ++ [.invoked ⟨tx.header, tx.payload, 0b001#3⟩] }) ∧
    (nextStage s.block.stage = none → exec .ackOk001 s = .next { s with
      block := { s.block with stage := .idle, attempt := 0#4, ackQ := .ok, rspValid := true, rspOk := true }
      history := s.history ++ [.invoked ⟨tx.header, tx.payload, 0b001#3⟩, .responded true] })

/-- R117, the WAIT branches, with R112 and R114: below nine earlier WAITs the same transaction is issued again, bit for bit
(R115); the tenth WAIT aborts the command. -/
def Obligations.WaitReissuesAndTheTenthAborts : Prop :=
  ∀ (s : State) (tx : Transaction), xact s.block = some tx →
    (s.block.attempt.toNat < 9 → ∃ t, exec .ackWait010 s = .next t ∧
      t = { s with
        block := { s.block with attempt := s.block.attempt + 1#4, ackQ := .wait }
        history := s.history ++ [.invoked ⟨tx.header, tx.payload, 0b010#3⟩] } ∧
      t.block.attempt.toNat = s.block.attempt.toNat + 1 ∧ xact t.block = some tx) ∧
    (¬ s.block.attempt.toNat < 9 → exec .ackWait010 s = .next { s with
      block := { s.block with stage := .idle, attempt := 0#4, ackQ := .wait, rspValid := true, rspOk := false }
      history := s.history ++ [.invoked ⟨tx.header, tx.payload, 0b010#3⟩, .responded false] })

/-- R191, R192, R198: FAULT and each of the five patterns that are no code abort the command at once, whatever the attempt
count: response 0, idle, nothing saved and nothing undone. -/
def Obligations.FaultAndProtocolErrorAbortAtOnce : Prop :=
  ∀ (s : State) (tx : Transaction), xact s.block = some tx →
    let aborted : AckCode → BitVec 3 → Host.Outcome State Fault Refusal := fun c b => .next { s with
      block := { s.block with stage := .idle, attempt := 0#4, ackQ := c, rspValid := true, rspOk := false }
      history := s.history ++ [.invoked ⟨tx.header, tx.payload, b⟩, .responded false] }
    exec .ackFault100 s = aborted .fault 0b100#3 ∧
    exec .ackProtocolError000 s = aborted .protocolError 0b000#3 ∧
    exec .ackProtocolError011 s = aborted .protocolError 0b011#3 ∧
    exec .ackProtocolError101 s = aborted .protocolError 0b101#3 ∧
    exec .ackProtocolError110 s = aborted .protocolError 0b110#3 ∧
    exec .ackProtocolError111 s = aborted .protocolError 0b111#3

/-- R26 for the patterns: with the block idle nothing was invoked, and a pattern changes nothing. -/
def Obligations.AnswersAreNotUsedWhenIdle : Prop :=
  ∀ s : State, s.block.stage = .idle →
    exec .ackOk001 s = .next s ∧ exec .ackWait010 s = .next s ∧ exec .ackFault100 s = .next s ∧
    exec .ackProtocolError000 s = .next s ∧ exec .ackProtocolError011 s = .next s ∧
    exec .ackProtocolError101 s = .next s ∧ exec .ackProtocolError110 s = .next s ∧
    exec .ackProtocolError111 s = .next s

/-- R132: the stage table of `WRITE_DP`. -/
def Obligations.StageTableOfWriteDp : Prop :=
  ∀ b : Block, b.stage = .dpWr →
    nextStage b.stage = none ∧
    (b.addrQ.extractLsb' 2 2 = 0#2 → xact b = some ⟨0x81#8, some (leBytes b.dataQ)⟩) ∧
    (b.addrQ.extractLsb' 2 2 = 1#2 → xact b = some ⟨0xA9#8, some (leBytes b.dataQ)⟩) ∧
    (b.addrQ.extractLsb' 2 2 = 2#2 → xact b = some ⟨0xB1#8, some (leBytes b.dataQ)⟩) ∧
    (b.addrQ.extractLsb' 2 2 = 3#2 → xact b = some ⟨0x99#8, some (leBytes b.dataQ)⟩)

/-- R145: the stage table of `WRITE_AP`. -/
def Obligations.StageTableOfWriteAp : Prop :=
  ∀ b : Block,
    (b.stage = .apSel → nextStage b.stage = some .apWr ∧
      xact b = some ⟨0xB1#8, some (leBytes ((b.addrQ &&& 0xFF000000#32) ||| (b.addrQ &&& 0x000000F0#32)))⟩) ∧
    (b.stage = .apWr → nextStage b.stage = some .apFlush ∧
      (b.addrQ.extractLsb' 2 2 = 0#2 → xact b = some ⟨0xA3#8, some (leBytes b.dataQ)⟩) ∧
      (b.addrQ.extractLsb' 2 2 = 1#2 → xact b = some ⟨0x8B#8, some (leBytes b.dataQ)⟩) ∧
      (b.addrQ.extractLsb' 2 2 = 2#2 → xact b = some ⟨0x93#8, some (leBytes b.dataQ)⟩) ∧
      (b.addrQ.extractLsb' 2 2 = 3#2 → xact b = some ⟨0xBB#8, some (leBytes b.dataQ)⟩)) ∧
    (b.stage = .apFlush → nextStage b.stage = none ∧ xact b = some ⟨0xBD#8, none⟩)

/-- R169: the stage table of `WRITE_WORD`, its last column (the document's state entered on OK, R38), and that a final code
other than OK leads from every stage to `Aborted(failure)`. Which of the document's states an idle block is in is settled by
log 18. -/
def Obligations.StageTableOfWriteWord : Prop :=
  ∀ s : State, s.block.opQ = 0b10#2 →
    let row : Stage → Transaction → Option Stage → DocState → Prop := fun st tx next entered =>
      s.block.stage = st →
        xact s.block = some tx ∧ nextStage st = next ∧ (invoke 0b001#3 s).block.docState = some entered ∧
        (∀ b : BitVec 3, decodeAck b ≠ .ok → (decodeAck b = .wait → ¬ s.block.attempt.toNat < 9) →
          (invoke b s).block.docState = some .aborted)
    row .wwSel ⟨0xB1#8, some ⟨0x00#8, 0x00#8, 0x00#8, 0x00#8⟩⟩ (some .wwCsw) .idle ∧
    row .wwCsw ⟨0xA3#8, some ⟨0x52#8, 0x00#8, 0x00#8, 0x23#8⟩⟩ (some .wwCswFlush) .idle ∧
    row .wwCswFlush ⟨0xBD#8, none⟩ (some .wwTar) .cswConfigured ∧
    row .wwTar ⟨0x8B#8, some (leBytes s.block.addrQ)⟩ (some .wwDrw) .addressSet ∧
    row .wwDrw ⟨0xBB#8, some (leBytes s.block.dataQ)⟩ (some .wwFlush) .dataWritten ∧
    row .wwFlush ⟨0xBD#8, none⟩ none .flushed

/-! ### The Transaction Headers -/

/-- R89: the sixteen header values, and which of them which command can emit: a pair of header and command is possible exactly
when the table's last column lists it. -/
def Obligations.BlockEmitsExactlyTheNineHeaders : Prop :=
  let emits : List (Byte × BitVec 2) :=
    [(0x81#8, 0#2), (0xA9#8, 0#2), (0xB1#8, 0#2), (0xB1#8, 1#2), (0xB1#8, 2#2), (0x99#8, 0#2), (0xBD#8, 1#2),
      (0xBD#8, 2#2), (0xA3#8, 1#2), (0xA3#8, 2#2), (0x8B#8, 1#2), (0x8B#8, 2#2), (0x93#8, 1#2), (0xBB#8, 1#2),
      (0xBB#8, 2#2)]
  [hdr .dp .write 0#2, hdr .dp .write 1#2, hdr .dp .write 2#2, hdr .dp .write 3#2,
    hdr .dp .read 0#2, hdr .dp .read 1#2, hdr .dp .read 2#2, hdr .dp .read 3#2,
    hdr .ap .write 0#2, hdr .ap .write 1#2, hdr .ap .write 2#2, hdr .ap .write 3#2,
    hdr .ap .read 0#2, hdr .ap .read 1#2, hdr .ap .read 2#2, hdr .ap .read 3#2] =
    [0x81#8, 0xA9#8, 0xB1#8, 0x99#8, 0xA5#8, 0x8D#8, 0x95#8, 0xBD#8, 0xA3#8, 0x8B#8, 0x93#8, 0xBB#8, 0x87#8, 0xAF#8,
      0xB7#8, 0x9F#8] ∧
  (∀ (b : Block) (tx : Transaction) (op : BitVec 2), xact b = some tx → b.stage.owner = some op →
    (tx.header, op) ∈ emits) ∧
  (∀ e ∈ emits, ∃ (b : Block) (tx : Transaction), xact b = some tx ∧ b.stage.owner = some e.2 ∧ tx.header = e.1)

/-- R132, R145, R169 with R117: each of the nine headers, with the payload its stage builds, is the INVOKE step: the answer is
the next listed reply, or a free value when none is listed (log 5), and everything else is what that answer does. If the
primitive never returns there is no step (U7). -/
def Obligations.EmittedHeadersPerformTheInvocation : Prop :=
  ∀ s : State,
    let invokes : Instr → Prop := fun i =>
      (∀ b d rs, s.replies = .returns b d :: rs → exec i s = .next (invoke b { s with replies := rs })) ∧
      (s.replies = [] → exec i s = .next (invoke (Config.freeAck s.draws) { s with draws := s.draws + 1 })) ∧
      (∀ rs, s.replies = .never :: rs → exec i s = .fault .primitiveNeverReturns)
    let sel := s.block.addrQ.extractLsb' 2 2
    let data := some (leBytes s.block.dataQ)
    (s.block.stage = .dpWr → sel = 0#2 → invokes (.hdrDpW0 data)) ∧
    (s.block.stage = .dpWr → sel = 1#2 → invokes (.hdrDpW4 data)) ∧
    (s.block.stage = .dpWr → sel = 2#2 → invokes (.hdrDpW8 data)) ∧
    (s.block.stage = .dpWr → sel = 3#2 → invokes (.hdrDpWC data)) ∧
    (s.block.stage = .apSel → invokes (.hdrDpW8 (some (leBytes (selval s.block.addrQ))))) ∧
    (s.block.stage = .wwSel → invokes (.hdrDpW8 (some ⟨0#8, 0#8, 0#8, 0#8⟩))) ∧
    (s.block.stage = .apWr → sel = 0#2 → invokes (.hdrApW0 data)) ∧
    (s.block.stage = .apWr → sel = 1#2 → invokes (.hdrApW4 data)) ∧
    (s.block.stage = .apWr → sel = 2#2 → invokes (.hdrApW8 data)) ∧
    (s.block.stage = .apWr → sel = 3#2 → invokes (.hdrApWC data)) ∧
    (s.block.stage = .wwCsw → invokes (.hdrApW0 (some ⟨0x52#8, 0x00#8, 0x00#8, 0x23#8⟩))) ∧
    (s.block.stage = .wwTar → invokes (.hdrApW4 (some (leBytes s.block.addrQ)))) ∧
    (s.block.stage = .wwDrw → invokes (.hdrApWC data)) ∧
    (s.block.stage = .apFlush ∨ s.block.stage = .wwCswFlush ∨ s.block.stage = .wwFlush → invokes (.hdrDpRC none))

/-- R26, R223 (log 7): while the block is idle a transaction on the primitive is another agent's. Each of the sixteen headers,
the seven the block never emits among them, is then answered by the primitive, with the next listed reply or a free value
(log 5), and the block takes no part: only the replies, the counter of free values and the history change. That the machine stops
if the primitive never returns from such a transaction is the model's choice (log 17). -/
def Obligations.OutsideTransactionLeavesTheIdleBlock : Prop :=
  ∀ (s : State) (q : Payload), s.block.stage = .idle →
    let answered : Instr → Byte → Option Payload → Prop := fun i h p =>
      (∀ b d rs, s.replies = .returns b d :: rs →
        exec i s = .next { s with replies := rs, history := s.history ++ [.outside ⟨h, p, b⟩] }) ∧
      (s.replies = [] → exec i s = .next { s with
        draws := s.draws + 1, history := s.history ++ [.outside ⟨h, p, Config.freeAck s.draws⟩] }) ∧
      (∀ rs, s.replies = .never :: rs → exec i s = .fault .primitiveNeverReturns)
    answered (.hdrDpW0 (some q)) 0x81#8 (some q) ∧ answered (.hdrDpW4 (some q)) 0xA9#8 (some q) ∧
    answered (.hdrDpW8 (some q)) 0xB1#8 (some q) ∧ answered (.hdrDpWC (some q)) 0x99#8 (some q) ∧
    answered (.hdrDpR0 none) 0xA5#8 none ∧ answered (.hdrDpR4 none) 0x8D#8 none ∧
    answered (.hdrDpR8 none) 0x95#8 none ∧ answered (.hdrDpRC none) 0xBD#8 none ∧
    answered (.hdrApW0 (some q)) 0xA3#8 (some q) ∧ answered (.hdrApW4 (some q)) 0x8B#8 (some q) ∧
    answered (.hdrApW8 (some q)) 0x93#8 (some q) ∧ answered (.hdrApWC (some q)) 0xBB#8 (some q) ∧
    answered (.hdrApR0 none) 0x87#8 none ∧ answered (.hdrApR4 none) 0xAF#8 none ∧
    answered (.hdrApR8 none) 0xB7#8 none ∧ answered (.hdrApRC none) 0x9F#8 none

/-- R225, U1 (`refuse`): while a command is in progress, a step with another agent's transaction is refused, and so is every
header row that is not the stage's own transaction, the seven read headers the block never emits always. The last clause is the
model's choice (log 15): a header whose payload does not fit its direction, a combination that R91 says never occurs, is refused
in every state. -/
def Obligations.IntrusionAndMisfitPayloadAreRefused : Prop :=
  (∀ (s : State) (tx : Transaction), s.block.stage ≠ .idle → s.resetIn = .released → s.outside = some tx →
    step s = .refused .foreignTransaction) ∧
  (∀ (s : State) (tx : Transaction) (r : RegRef) (p : Option Payload), xact s.block = some tx →
    p.isSome = decide (r.dir = .write) → tx ≠ ⟨r.header, p⟩ →
    exec (headerInstr r p) s = .refused .foreignTransaction) ∧
  (∀ s : State, s.block.stage ≠ .idle →
    exec (.hdrDpR0 none) s = .refused .foreignTransaction ∧ exec (.hdrDpR4 none) s = .refused .foreignTransaction ∧
    exec (.hdrDpR8 none) s = .refused .foreignTransaction ∧ exec (.hdrApR0 none) s = .refused .foreignTransaction ∧
    exec (.hdrApR4 none) s = .refused .foreignTransaction ∧ exec (.hdrApR8 none) s = .refused .foreignTransaction ∧
    exec (.hdrApRC none) s = .refused .foreignTransaction) ∧
  (∀ (i : Instr) (s : State), i.wellFormed = false → exec i s = .refused .payloadMismatch)

/-! ### One step -/

/-- A step runs the instruction its port's bytes decode to: the record on the command port of an idle block, the pattern the
primitive returns to a busy one, the busy block's own transaction when no return is listed, another agent's transaction on an
idle block. What the step adds to exec is that the word is taken off its port. -/
def Obligations.StepRunsTheDecodedInstruction : Prop :=
  ∀ (s : State) (i : Instr), s.resetIn = .released →
    (∀ r cs, s.outside = none → s.block.stage = .idle → s.commands = r :: cs → decode r.bytes = .ok i →
      step s = exec i { s with commands := cs }) ∧
    (∀ b d rs, s.outside = none → s.block.stage ≠ .idle → s.replies = .returns b d :: rs →
      decode (ackBytes b) = .ok i → step s = exec i { s with replies := rs }) ∧
    (∀ tx, s.outside = none → xact s.block = some tx → (∀ b d rs, s.replies ≠ .returns b d :: rs) →
      decode tx.bytes = .ok i → step s = exec i s) ∧
    (∀ tx, s.outside = some tx → s.block.stage = .idle → 8 ≤ tx.header.toNat → decode tx.bytes = .ok i →
      step s = exec i { s with outside := none })

/-- R10, R66, R117: with reset released and the primitive the block's own, a step is ACCEPT of the record presented (idle) or
INVOKE with the primitive's answer (busy), and it goes on. -/
def Obligations.StepIsAcceptOrInvoke : Prop :=
  ∀ s : State, s.resetIn = .released → s.outside = none →
    (∀ r cs, s.block.stage = .idle → s.commands = r :: cs → ∃ t, step s = .next t ∧
      t.commands = cs ∧ t.block.opQ = r.op ∧ t.block.addrQ = r.addr ∧ t.block.dataQ = r.data ∧
      t.block.attempt = 0#4 ∧ t.block.rspValid = decide (r.op = 0b11#2) ∧
      t.block.stage = (if r.op = 0b00#2 then .dpWr else if r.op = 0b01#2 then .apSel
        else if r.op = 0b10#2 then .wwSel else .idle) ∧
      t.history.countP Event.isInvoked = s.history.countP Event.isInvoked) ∧
    (∀ b d rs, s.block.stage ≠ .idle → s.replies = .returns b d :: rs →
      step s = .next (invoke b { s with replies := rs })) ∧
    (s.block.stage ≠ .idle → s.replies = [] →
      step s = .next (invoke (Config.freeAck s.draws) { s with draws := s.draws + 1 }))

/-- R117: a step makes at most one invocation, exactly one when the block is busy and reset is released, and only appends to
the history (R29). -/
def Obligations.StepMakesOneInvocationWhenBusy : Prop :=
  ∀ s t : State, step s = .next t →
    ∃ es, t.history = s.history ++ es ∧
      es.countP Event.isInvoked = (if s.block.busy = true ∧ s.resetIn = .released then 1 else 0)

/-- R170: the only transfers of control without reset: stay, ACCEPT from `IDLE` to the first stage of the command, advance to
the next stage, complete with response 1 after the last stage, abort with response 0. -/
def Obligations.ControlMovesOnlyForward : Prop :=
  ∀ s t : State, s.resetIn = .released → step s = .next t →
    t.block.stage = s.block.stage ∨
    (s.block.stage = .idle ∧ ∃ r cs, s.commands = r :: cs ∧
      ((r.op = 0b00#2 ∧ t.block.stage = .dpWr) ∨ (r.op = 0b01#2 ∧ t.block.stage = .apSel) ∨
        (r.op = 0b10#2 ∧ t.block.stage = .wwSel))) ∨
    (s.block.stage ≠ .idle ∧ nextStage s.block.stage = some t.block.stage) ∨
    (s.block.stage ≠ .idle ∧ t.block.stage = .idle ∧ t.block.rspValid = true ∧
      (t.block.rspOk = true → nextStage s.block.stage = none))

/-- R170: "the path depends on `op` and on the acknowledge codes alone": blocks at the same stage and attempt count, whatever
their latched addresses and data, take the same path on answers of the same code. -/
def Obligations.PathDependsOnAcknowledgeCodesAlone : Prop :=
  ∀ (s t : State) (a b : BitVec 3), s.block.stage = t.block.stage → s.block.attempt = t.block.attempt →
    s.block.rspValid = t.block.rspValid → s.block.rspOk = t.block.rspOk → decodeAck a = decodeAck b →
    (invoke a s).block.stage = (invoke b t).block.stage ∧ (invoke a s).block.attempt = (invoke b t).block.attempt ∧
    (invoke a s).block.rspValid = (invoke b t).block.rspValid ∧ (invoke a s).block.rspOk = (invoke b t).block.rspOk

/-- R23: without reset the operand latches are written only by ACCEPT, with the record presented. -/
def Obligations.LatchesAreWrittenOnlyByAccept : Prop :=
  ∀ s t : State, s.resetIn = .released → step s = .next t →
    (t.block.opQ = s.block.opQ ∧ t.block.addrQ = s.block.addrQ ∧ t.block.dataQ = s.block.dataQ) ∨
    (s.block.stage = .idle ∧ ∃ cs, s.commands = ⟨t.block.opQ, t.block.addrQ, t.block.dataQ⟩ :: cs ∧ t.commands = cs)

/-- R119, for the answers to the block's own invocations: the 32 data bits returned are stored nowhere and influence nothing.
The second disjunct of the first hypothesis adds the answers to another agent's transactions while the block is idle; that such
transactions are in the model is its choice (log 7), and R119 does not speak of them. -/
def Obligations.ReadDataInfluencesNothing : Prop :=
  ∀ (s : State) (b : BitVec 3) (d e : Word) (rs : List Reply),
    (s.block.stage ≠ .idle ∨ s.outside ≠ none) → s.resetIn = .released →
    step { s with replies := .returns b d :: rs } = step { s with replies := .returns b e :: rs }

/-- U7: if the primitive never returns, no step is enabled, and only reset leads on (R220). -/
def Obligations.UnreturnedInvocationIsStuckUntilReset : Prop :=
  ∀ (s : State) (rs : List Reply), s.block.stage ≠ .idle → s.outside = none → s.replies = .never :: rs →
    (s.resetIn = .released → step s = .fault .primitiveNeverReturns) ∧
    (s.resetIn ≠ .released → ∃ t, step s = .next t ∧ t.block.stage = .idle)

/-! ### Reset -/

/-- R220, R221, R222: reset, in any state, leaves the block idle with `attempt` and `rsp_valid` 0 and its inputs alone; it
produces no response and no invocation of its own, and a busy block's command is abandoned. An invocation in progress is
recorded as cut short and its answer is not used (log 8); the released input is the model's (log 8), and so it is that another
agent's request and the replies to an idle block stay (log 17). -/
def Obligations.ResetAbandonsTheCommand : Prop :=
  ∀ s : State, s.resetIn ≠ .released → ∃ t, step s = .next t ∧
    t.block.stage = .idle ∧ t.block.attempt = 0#4 ∧ t.block.rspValid = false ∧
    t.commands = s.commands ∧ t.outside = s.outside ∧ t.resetIn = .released ∧
    (s.block.stage = .idle → t.replies = s.replies ∧ t.history = s.history) ∧
    (∀ tx, xact s.block = some tx → s.resetIn = .betweenInvocations →
      t.replies = s.replies ∧ t.history = s.history ++ [.abandoned]) ∧
    (∀ tx, xact s.block = some tx → s.resetIn = .duringInvocation →
      t.replies = s.replies.tail ∧ t.history = s.history ++ [.cutShort tx, .abandoned])

/-- R37, R20 (c), R224: what a command does cannot depend on what the block held before it. Two machines with the same inputs
whose blocks agree on `stage`, `attempt`, `rsp_valid`, on the latches while busy and on `rsp_ok` while it has a meaning, stay so
at every step and add the same events: the elements R37 leaves unspecified, and so the zeros of log 1, reach nothing. -/
def Obligations.UnspecifiedElementsReachNothing : Prop :=
  ∀ s t s' : State, s.agreesWith t → step s = .next s' →
    ∃ t' es, step t = .next t' ∧ s'.agreesWith t' ∧ s'.history = s.history ++ es ∧ t'.history = t.history ++ es

/-! ### Invariants -/

/-- R21, R22, R23: the legal block states (attempt count 0 to 9, 0 when idle; a busy stage belongs to the latched command) are
kept by every step. -/
def Obligations.LegalBlockIsKeptByEveryStep : Prop :=
  ∀ s t : State, s.block.legal = true → step s = .next t → t.block.legal = true

/-- R22, R62: that `attempt` is the number of invocations of the current transaction already answered WAIT, all at the end of
the history, is kept by every step. -/
def Obligations.AttemptCountsTheTrailingWaits : Prop :=
  ∀ s t : State, s.attemptCounts = true → step s = .next t → t.attemptCounts = true

/-- R89, R91: that every invocation of the block carries one of its nine headers, with a payload exactly for a write, is kept by
every step. -/
def Obligations.HistoryHoldsOnlyEmittableInvocations : Prop :=
  ∀ s t : State, s.history.all Event.emittable = true → step s = .next t → t.history.all Event.emittable = true

/-- R134, R148, R173, R221: that every accepted command but the one in progress has ended exactly once, by its response or by
reset, is kept by every step. -/
def Obligations.EveryCommandEndsExactlyOnce : Prop :=
  ∀ s t : State, s.accounted = true → step s = .next t → t.accounted = true

/-- R37: the three reset values the spec gives; and the four invariants hold at reset. -/
def Obligations.ResetMeetsTheInvariants : Prop :=
  State.reset.block.stage = .idle ∧ State.reset.block.attempt = 0#4 ∧ State.reset.block.rspValid = false ∧
  State.reset.block.legal = true ∧ State.reset.attemptCounts = true ∧ State.reset.accounted = true ∧
  State.reset.history.all Event.emittable = true

/-! ### The call formulation -/

/-- R113, R120: one `XFER` makes exactly `k` invocations when its first `k-1` answers are WAIT and the `k`-th is not, up to ten;
it returns WAIT only after exactly ten, makes at least one, and ends whenever ten answers are to be had. -/
def Obligations.RetryingTransferMakesOneToTenInvocations : Prop :=
  ∀ (tx : Transaction) (answers : List (BitVec 3)),
    (∀ r, xfer tx answers = some r → 1 ≤ r.invocations.length ∧ r.invocations.length ≤ 10 ∧
      (r.value = .wait → r.invocations.length = 10) ∧ r.rest = answers.drop r.invocations.length) ∧
    (10 ≤ answers.length → ∃ r, xfer tx answers = some r) ∧
    (∀ (k : Nat) (b : BitVec 3) (rest : List (BitVec 3)), k < 10 → decodeAck b ≠ .wait →
      answers = List.replicate k config.ackWait ++ b :: rest →
      ∃ r, xfer tx answers = some r ∧ r.value = decodeAck b ∧ r.invocations.length = k + 1 ∧ r.rest = rest)

/-- R114: ten WAIT answers in a row end the transfer with WAIT after exactly ten invocations, however many more there are, and
`write_dp` with false. -/
def Obligations.TenWaitsExhaustTheBudget : Prop :=
  ∀ (n : Nat) (rest : List (BitVec 3)), 10 ≤ n →
    (∀ tx, ∃ r, xfer tx (List.replicate n config.ackWait ++ rest) = some r ∧ r.value = .wait ∧
      r.invocations.length = 10 ∧ r.rest = List.replicate (n - 10) config.ackWait ++ rest) ∧
    (∀ a v, ∃ r, writeDpCall a v (List.replicate n config.ackWait ++ rest) = some r ∧ r.value = false ∧
      r.invocations.length = 10)

/-- R115: every invocation of one `XFER` carries the same header and the same payload, bit for bit. -/
def Obligations.EveryReissueIsIdentical : Prop :=
  (∀ (tx : Transaction) (answers : List (BitVec 3)) (r : CallResult AckCode), xfer tx answers = some r →
    ∀ inv ∈ r.invocations, inv.header = tx.header ∧ inv.payload = tx.payload) ∧
  (∀ (s : State) (b : BitVec 3), (invoke b s).block.stage = s.block.stage →
    xact (invoke b s).block = xact s.block ∧ (invoke b s).block.opQ = s.block.opQ ∧
      (invoke b s).block.addrQ = s.block.addrQ ∧ (invoke b s).block.dataQ = s.block.dataQ)

/-- R233: the invocation counts of each command, on success and in any outcome, and on a run answered OK throughout. -/
def Obligations.InvocationCountsOfEachCommand : Prop :=
  ∀ (a d : Word) (answers : List (BitVec 3)) (r : CallResult Bool),
    (commandCall ⟨0b00#2, a, d⟩ answers = some r → 1 ≤ r.invocations.length ∧ r.invocations.length ≤ 10) ∧
    (commandCall ⟨0b01#2, a, d⟩ answers = some r →
      1 ≤ r.invocations.length ∧ r.invocations.length ≤ 30 ∧ (r.value = true → 3 ≤ r.invocations.length)) ∧
    (commandCall ⟨0b10#2, a, d⟩ answers = some r →
      1 ≤ r.invocations.length ∧ r.invocations.length ≤ 60 ∧ (r.value = true → 6 ≤ r.invocations.length)) ∧
    (commandCall ⟨0b11#2, a, d⟩ answers = some r → r.invocations = [] ∧ r.value = false) ∧
    (∀ k, commandCall ⟨0b00#2, a, d⟩ (List.replicate (k + 1) config.ackOk) = some r →
      r.value = true ∧ r.invocations.length = 1) ∧
    (∀ k, commandCall ⟨0b01#2, a, d⟩ (List.replicate (k + 3) config.ackOk) = some r →
      r.value = true ∧ r.invocations.length = 3) ∧
    (∀ k, commandCall ⟨0b10#2, a, d⟩ (List.replicate (k + 6) config.ackOk) = some r →
      r.value = true ∧ r.invocations.length = 6)

/-- R144: a successful `write_ap` performs exactly the three transactions SELECT write, AP write and RDBUFF read, in this order,
each retried on its own: up to nine WAITs of one, then its OK, then the next. That is 3 to 30 invocations, three if all were
answered OK; and every choice of the three numbers of WAITs occurs, with exactly those invocations and success. -/
def Obligations.SuccessfulApWriteIsThreeTransactions : Prop :=
  ∀ (a v : Word),
    let waitsThenOk : Nat → Byte → Option Payload → List Invocation := fun n h p =>
      List.replicate n ⟨h, p, config.ackWait⟩ ++ [⟨h, p, config.ackOk⟩]
    let trace : Nat → Nat → Nat → List Invocation := fun i j k =>
      waitsThenOk i 0xB1#8 (some (leBytes (selval a))) ++
        waitsThenOk j (hdr .ap .write (a.extractLsb' 2 2)) (some (leBytes v)) ++ waitsThenOk k 0xBD#8 none
    (∀ (answers : List (BitVec 3)) (r : CallResult Bool), writeApCall a v answers = some r → r.value = true →
      (∃ i j k, i ≤ 9 ∧ j ≤ 9 ∧ k ≤ 9 ∧ r.invocations = trace i j k) ∧
      3 ≤ r.invocations.length ∧ r.invocations.length ≤ 30 ∧
      ((∀ x ∈ r.invocations, x.ack = config.ackOk) → r.invocations.length = 3)) ∧
    (∀ (i j k : Nat) (rest : List (BitVec 3)), i ≤ 9 → j ≤ 9 → k ≤ 9 →
      writeApCall a v ((trace i j k).map Invocation.ack ++ rest) = some ⟨true, trace i j k, rest⟩)

/-- R167: a successful `write_word` issues exactly six transactions, in this order; every other invocation was answered WAIT; 6
to 60 in all. -/
def Obligations.SuccessfulWordWriteIsSixTransactions : Prop :=
  ∀ (a v : Word) (answers : List (BitVec 3)) (r : CallResult Bool), writeWordCall a v answers = some r → r.value = true →
    r.invocations.filter (fun i => decide (i.ack = config.ackOk)) =
      [⟨0xB1#8, some (leBytes 0x00000000#32), config.ackOk⟩, ⟨0xA3#8, some (leBytes 0x23000052#32), config.ackOk⟩,
        ⟨0xBD#8, none, config.ackOk⟩, ⟨0x8B#8, some (leBytes a), config.ackOk⟩,
        ⟨0xBB#8, some (leBytes v), config.ackOk⟩, ⟨0xBD#8, none, config.ackOk⟩] ∧
    (∀ i ∈ r.invocations, i.ack = config.ackOk ∨ i.ack = config.ackWait) ∧
    6 ≤ r.invocations.length ∧ r.invocations.length ≤ 60

/-- R166 (the document's P5): if the CSW configuration fails, `write_word` is false and issues neither the TAR nor the DRW
write; its invocations are those of the failed configuration. -/
def Obligations.FailedCswConfigurationIssuesNoTarOrDrw : Prop :=
  ∀ (a v : Word) (answers : List (BitVec 3)) (r : CallResult Bool),
    writeApCall 0x00000000#32 0x23000052#32 answers = some r → r.value = false →
    writeWordCall a v answers = some r ∧ ∀ i ∈ r.invocations, i.header ≠ 0x8B#8 ∧ i.header ≠ 0xBB#8

/-- R95: the ignored address bits change nothing, and no other bit of a command is ignored. -/
def Obligations.IgnoredBitsAreExactlyThese : Prop :=
  (∀ (a a' v : Word) (answers : List (BitVec 3)), a.extractLsb' 2 2 = a'.extractLsb' 2 2 →
    commandCall ⟨0b00#2, a, v⟩ answers = commandCall ⟨0b00#2, a', v⟩ answers) ∧
  (∀ (a a' v : Word) (answers : List (BitVec 3)), a &&& 0xFF0000FC#32 = a' &&& 0xFF0000FC#32 →
    commandCall ⟨0b01#2, a, v⟩ answers = commandCall ⟨0b01#2, a', v⟩ answers) ∧
  (∀ a a' v v' : Word,
    (∀ answers, commandCall ⟨0b00#2, a, v⟩ answers = commandCall ⟨0b00#2, a', v'⟩ answers) →
      a.extractLsb' 2 2 = a'.extractLsb' 2 2 ∧ v = v') ∧
  (∀ a a' v v' : Word,
    (∀ answers, commandCall ⟨0b01#2, a, v⟩ answers = commandCall ⟨0b01#2, a', v'⟩ answers) →
      a &&& 0xFF0000FC#32 = a' &&& 0xFF0000FC#32 ∧ v = v') ∧
  (∀ a a' v v' : Word,
    (∀ answers, commandCall ⟨0b10#2, a, v⟩ answers = commandCall ⟨0b10#2, a', v'⟩ answers) → a = a' ∧ v = v')

/-- R198, R195: a command's response is 1 exactly when its last invocation was answered OK, and no invocation but the last was
answered anything but OK or WAIT: the first failure ends the command. -/
def Obligations.FirstFailureEndsTheCommand : Prop :=
  ∀ (cmd : CmdRecord) (answers : List (BitVec 3)) (r : CallResult Bool), cmd.op ≠ 0b11#2 →
    commandCall cmd answers = some r →
    ∃ before last, r.invocations = before ++ [last] ∧ (r.value = true ↔ decodeAck last.ack = .ok) ∧
      ∀ i ∈ before, decodeAck i.ack = .ok ∨ decodeAck i.ack = .wait

/-- R117: the step formulation and the call formulation give the same trace and the same result, for every command record and
every sequence of answers: ACCEPT and then one step per invocation of the call, each appended in order, one response at the end
with the call's value, the operand latches holding the record, and nothing else touched but `ack_q`, of which nothing is said. -/
def Obligations.StepsPerformTheCallOfEachCommand : Prop :=
  ∀ (s : State) (cmd : CmdRecord) (cs : List CmdRecord) (answers : List (BitVec 3 × Word)) (r : CallResult Bool),
    s.block.stage = .idle → s.resetIn = .released → s.outside = none → s.commands = cmd :: cs →
    s.replies = returning answers → commandCall cmd (answers.map Prod.fst) = some r →
    ∃ t : State, Host.Core.run core (1 + r.invocations.length) s = .next t ∧
      t.block.stage = .idle ∧ t.block.attempt = 0#4 ∧ t.block.rspValid = true ∧ t.block.rspOk = r.value ∧
      t.block.opQ = cmd.op ∧ t.block.addrQ = cmd.addr ∧ t.block.dataQ = cmd.data ∧
      t.commands = cs ∧ t.replies = returning (answers.drop r.invocations.length) ∧
      t.resetIn = .released ∧ t.outside = none ∧ t.draws = s.draws ∧
      t.history = s.history ++ .accepted cmd :: (r.invocations.map Event.invoked ++ [.responded r.value])

/-- R234: provided every invocation returns, every command ends with a response after at most 60 invocations, whatever the
primitive answers, listed or free; it makes one invocation a step, and duration (R232) is at most 60 times `T_XFER`. -/
def Obligations.EveryCommandEndsWithinSixtyInvocations : Prop :=
  ∀ (s : State) (cmd : CmdRecord) (cs : List CmdRecord),
    s.block.stage = .idle → s.resetIn = .released → s.outside = none → s.commands = cmd :: cs →
    s.primitiveReturns = true →
    ∃ (t : State) (invs : List Invocation) (ok : Bool), invs.length ≤ 60 ∧
      duration invs ≤ 60 * Config.tXfer ∧
      Host.Core.run core (1 + invs.length) s = .next t ∧ t.block.stage = .idle ∧ t.block.rspValid = true ∧
      t.block.rspOk = ok ∧ t.commands = cs ∧
      t.history = s.history ++ .accepted cmd :: (invs.map Event.invoked ++ [.responded ok])

/-- R53, R68, R228: if `write_word` succeeds and the target obeys the named hypothesis, its memory holds the word at the address
and its SELECT names AP 0 bank 0. The target's behaviour is a premise; the spec gives none
(R30; log 11). When a posted write takes effect in it (log 19), and that a DRW write stores the word at every TAR, an unaligned
one too, and whatever CSW holds (log 20), and that SELECT holds a written value whole, bits 3:0 and 23:8 included (log 21), are
the model's choices. -/
def Obligations.WordReachesAnObedientTarget : Prop :=
  ∀ (σ : Type) (act : σ → Invocation → σ) (select tar : σ → Word) (mem : σ → Word → Word),
    WordTarget act select tar mem →
    ∀ (x : σ) (a v : Word) (answers : List (BitVec 3)) (r : CallResult Bool),
      writeWordCall a v answers = some r → r.value = true →
      mem (r.invocations.foldl act x) a = v ∧ select (r.invocations.foldl act x) = 0#32
end

