-- ==== Sys2Proof/Laws/Decode.lean ====
section
/-! SUPPORT. Small lemmas of the byte order, the header and the decoder. -/

namespace Sys2Proof

theorem ofLeBytes_leBytes (v : Word) : ofLeBytes (leBytes v) = v := by
  apply BitVec.eq_of_getLsbD_eq
  intro i hi
  simp only [ofLeBytes, leBytes, BitVec.getLsbD_append, BitVec.getLsbD_extractLsb']
  split
  · simp [*]
  · split
    · rw [show 8 + (i - 8) = i by omega]; simp [*]
    · split
      · rw [show 16 + (i - 8 - 8) = i by omega]; simp [*]
      · rw [show 24 + (i - 8 - 8 - 8) = i by omega]; simp; omega

theorem leBytes_ofLeBytes (p : Payload) : leBytes (ofLeBytes p) = p := by
  obtain ⟨a, b, c, d⟩ := p
  simp only [ofLeBytes, leBytes, Payload.mk.injEq]
  refine ⟨?_, ?_, ?_, ?_⟩ <;>
  · apply BitVec.eq_of_getLsbD_eq
    intro i hi
    simp only [BitVec.getLsbD_append, BitVec.getLsbD_extractLsb', hi]
    simp
    (repeat' split) <;> first | omega | (congr 1; omega)

theorem leBytes_injective {v w : Word} (h : leBytes v = leBytes w) : v = w := by
  rw [← ofLeBytes_leBytes v, h, ofLeBytes_leBytes]

/-! ### The header, in any layout -/

/-- The eight positions of a layout lie in the byte and are different. -/
def HeaderLayout.separate (l : HeaderLayout) : Prop :=
  ([l.startBit, l.kindBit, l.dirBit, l.a2Bit, l.a3Bit, l.parityBit, l.stopBit, l.parkBit] : List Nat).Nodup ∧
    ∀ n ∈ ([l.startBit, l.kindBit, l.dirBit, l.a2Bit, l.a3Bit, l.parityBit, l.stopBit, l.parkBit] : List Nat), n < 8

theorem headerBit_at {n : Nat} (b : Bool) (hn : n < 8) : (headerBit n b).getLsbD n = b := by
  simp [headerBit, hn]

theorem headerBit_off {n i : Nat} (b : Bool) (hne : ¬ i = n) : (headerBit n b).getLsbD i = false := by
  rcases Nat.lt_or_gt_of_ne hne with h | h
  · simp [headerBit, h]
  · simp [headerBit, show i - n ≠ 0 by omega]

theorem headerBit_off' {n i : Nat} (b : Bool) (hne : ¬ n = i) : (headerBit n b).getLsbD i = false :=
  headerBit_off b (Ne.symm hne)

/-- Whatever the layout, a header gives back its Register Reference: moving the fields touches no other definition (R7, R87). -/
theorem decodeHeaderIn_headerIn {l : HeaderLayout} (h : l.separate) (r : RegRef) :
    decodeHeaderIn l (headerIn l r) = .ok r := by
  obtain ⟨hd, hb⟩ := h
  simp only [List.nodup_cons, List.mem_cons, List.not_mem_nil, or_false, not_or, not_false_eq_true, and_true,
    List.nodup_nil] at hd
  simp only [List.mem_cons, List.not_mem_nil, or_false, forall_eq_or_imp, forall_eq] at hb
  have hr : regRefIn l (headerIn l r) = r := by
    obtain ⟨k, d, sel⟩ := r
    simp only [regRefIn, headerIn, BitVec.getLsbD_or, headerBit_at, headerBit_off, headerBit_off',
      hd, hb, not_false_eq_true, Bool.false_or, Bool.or_false]
    have hs : BitVec.ofBool (sel.getLsbD 1) ++ BitVec.ofBool (sel.getLsbD 0) = sel := by revert sel; decide
    rw [hs]
    cases k <;> cases d <;> rfl
  have hf : framedIn l (headerIn l r) = true := by
    simp only [framedIn, headerIn, BitVec.getLsbD_or, headerBit_at, headerBit_off, headerBit_off',
      hd, hb, not_false_eq_true, Bool.false_or, Bool.or_false, BEq.rfl, Bool.and_self]
  have hp : (headerIn l r).getLsbD l.parityBit = headerParity r := by
    simp only [headerIn, BitVec.getLsbD_or, headerBit_at, headerBit_off, headerBit_off', hd, hb,
      not_false_eq_true, Bool.false_or, Bool.or_false]
  simp [decodeHeaderIn, hf, hr, hp]

/-- A header's byte gives back its Register Reference (R87, R88). -/
theorem decodeHeader_header (r : RegRef) : decodeHeader r.header = .ok r :=
  decodeHeaderIn_headerIn (by unfold HeaderLayout.separate; decide) r

/-- The direction of a header is its RnW bit (R87). -/
theorem header_dirBit (r : RegRef) : r.header.getLsbD Machine.config.layout.dirBit = r.dir.bit := by
  obtain ⟨k, d, sel⟩ := r
  cases k <;> cases d <;> revert sel <;> decide

/-- A header is no acknowledge pattern (R87: bit 7 is 1). -/
theorem header_ge_eight (r : RegRef) : ¬ r.header.toNat < 8 := by
  obtain ⟨k, d, sel⟩ := r
  cases k <;> cases d <;> revert sel <;> decide

theorem decode_ackBytes (b : BitVec 3) : decode (ackBytes b) = .ok (ackInstr b) := by
  revert b; decide

theorem decode_commandBytes (op : BitVec 2) (a d : Word) :
    decode (commandBytes op a d) = .ok (commandInstr op a d) := by
  have h4 : (op.setWidth 8).toNat < 4 := by
    simp [BitVec.toNat_setWidth]; have := op.isLt; omega
  have h2 : (op.setWidth 8).setWidth 2 = op := by
    revert op; decide
  simp only [commandBytes, Payload.bytes, List.cons_append, List.nil_append, decode, h4, if_true, h2]
  show Except.ok (commandInstr op (ofLeBytes (leBytes a)) (ofLeBytes (leBytes d))) = _
  rw [ofLeBytes_leBytes, ofLeBytes_leBytes]

/-- Transactions of the sixteen headers decode to their rows (R89), the payload present exactly for a write (R91). -/
theorem decodeTransaction_header (r : RegRef) (p : Option Payload) (hp : p.isSome = !r.dir.bit) :
    decodeTransaction r.header p = .ok (headerInstr r p) := by
  obtain ⟨k, d, sel⟩ := r
  cases d <;> cases p <;> simp [Dir.bit] at hp <;> simp [decodeTransaction, decodeHeader_header]

set_option maxRecDepth 4000 in
/-- A byte that decodes to a Register Reference is its header (R89: sixteen of the 256 bytes do). -/
theorem header_of_decodeHeader {h : Byte} {r : RegRef} (e : decodeHeader h = .ok r) : h = r.header := by
  have all : ∀ h : Byte, (match decodeHeader h with
      | .ok r => decide (h = r.header)
      | .error _ => true) = true := by decide
  have := all h
  rw [e] at this
  exact of_decide_eq_true this

/-- And nothing else does. -/
theorem decodeTransaction_ok {h : Byte} {p : Option Payload} {i : Instr} (e : decodeTransaction h p = .ok i) :
    ∃ r : RegRef, h = r.header ∧ p.isSome = !r.dir.bit ∧ i = headerInstr r p := by
  unfold decodeTransaction at e
  split at e
  · cases e
  · rename_i r hr
    obtain rfl := header_of_decodeHeader hr
    obtain ⟨k, d, sel⟩ := r
    refine ⟨⟨k, d, sel⟩, rfl, ?_⟩
    cases d <;> cases p <;> simp at e <;> simp [Dir.bit, e]

/-- The byte decoder agrees with the format's own decoder on a transaction's bytes. -/
theorem decode_transactionBytes (r : RegRef) (p : Option Payload) :
    decode (transactionBytes r.header p) = decodeTransaction r.header p := by
  cases p with
  | none =>
    show (if _ then _ else decodeTransaction _ none) = _
    rw [if_neg (header_ge_eight _)]
  | some q => rfl

end Sys2Proof
end

