-- ==== Sys2Proof/Laws/Operands.lean ====
section
/-! SUPPORT. The operand computations in bits. -/

namespace Sys2Proof.Machine

/-- `REGSEL_MASK` and the shift are the field `a[3:2]` (R86). -/
theorem regSel_eq (a : Word) : regSel a = a.extractLsb' 2 2 := by
  apply BitVec.eq_of_getLsbD_eq
  intro i hi
  have : i = 0 ∨ i = 1 := by omega
  rcases this with rfl | rfl <;> simp [regSel, config]

/-- Of a `WRITE_DP` address only `addr[3:2]` reaches the header (R84). -/
theorem regSel_dpAddrOf (a : Word) : regSel (dpAddr (dpAddrOf a)) = a.extractLsb' 2 2 := by
  rw [regSel_eq]
  apply BitVec.eq_of_getLsbD_eq
  intro i hi
  have : i = 0 ∨ i = 1 := by omega
  rcases this with rfl | rfl <;> simp [dpAddr, dpAddrOf]

/-- The SELECT write of `WRITE_AP` (R145). -/
theorem selectWrite_eq (a : Word) : selectWrite a = ⟨0xB1#8, some (leBytes (selval a))⟩ := rfl

/-- The RDBUFF read-back (R143). -/
theorem rdbuffRead_eq : rdbuffRead = ⟨0xBD#8, none⟩ := rfl

/-- The TAR write (R161). -/
theorem tarWrite_eq (a : Word) : apWrite config.tarSel a = ⟨0x8B#8, some (leBytes a)⟩ := rfl

/-- The DRW write (R162). -/
theorem drwWrite_eq (d : Word) : apWrite config.drwSel d = ⟨0xBB#8, some (leBytes d)⟩ := rfl

/-- The CSW write (R166). -/
theorem cswWrite_eq : apWrite config.apCsw cswval = ⟨0xA3#8, some (leBytes 0x23000052#32)⟩ := rfl

end Sys2Proof.Machine
end

