-- ==== Sys2Proof/Laws/State.lean ====
section
/-! SUPPORT. One lemma per field per update of the state, all by rfl. -/

namespace Sys2Proof.Machine

/-! ### record -/

@[simp] theorem State.record_block (s : State) (es : List Event) : (s.record es).block = s.block := rfl
@[simp] theorem State.record_commands (s : State) (es : List Event) : (s.record es).commands = s.commands := rfl
@[simp] theorem State.record_replies (s : State) (es : List Event) : (s.record es).replies = s.replies := rfl
@[simp] theorem State.record_resetIn (s : State) (es : List Event) : (s.record es).resetIn = s.resetIn := rfl
@[simp] theorem State.record_outside (s : State) (es : List Event) : (s.record es).outside = s.outside := rfl
@[simp] theorem State.record_draws (s : State) (es : List Event) : (s.record es).draws = s.draws := rfl
@[simp] theorem State.record_history (s : State) (es : List Event) : (s.record es).history = s.history ++ es := rfl

/-! ### accept -/

variable (cmd : CmdRecord) (st : Stage) (ok : Bool) (s : State)

@[simp] theorem accept_stage : (accept cmd st s).block.stage = st := rfl
@[simp] theorem accept_attempt : (accept cmd st s).block.attempt = 0#4 := rfl
@[simp] theorem accept_opQ : (accept cmd st s).block.opQ = cmd.op := rfl
@[simp] theorem accept_addrQ : (accept cmd st s).block.addrQ = cmd.addr := rfl
@[simp] theorem accept_dataQ : (accept cmd st s).block.dataQ = cmd.data := rfl
@[simp] theorem accept_ackQ : (accept cmd st s).block.ackQ = s.block.ackQ := rfl
@[simp] theorem accept_rspValid : (accept cmd st s).block.rspValid = false := rfl
@[simp] theorem accept_rspOk : (accept cmd st s).block.rspOk = s.block.rspOk := rfl
@[simp] theorem accept_commands : (accept cmd st s).commands = s.commands := rfl
@[simp] theorem accept_replies : (accept cmd st s).replies = s.replies := rfl
@[simp] theorem accept_resetIn : (accept cmd st s).resetIn = s.resetIn := rfl
@[simp] theorem accept_outside : (accept cmd st s).outside = s.outside := rfl
@[simp] theorem accept_draws : (accept cmd st s).draws = s.draws := rfl
@[simp] theorem accept_history : (accept cmd st s).history = s.history ++ [.accepted cmd] := rfl

/-! ### respond -/

@[simp] theorem respond_stage : (respond ok s).block.stage = .idle := rfl
@[simp] theorem respond_attempt : (respond ok s).block.attempt = s.block.attempt := rfl
@[simp] theorem respond_opQ : (respond ok s).block.opQ = s.block.opQ := rfl
@[simp] theorem respond_addrQ : (respond ok s).block.addrQ = s.block.addrQ := rfl
@[simp] theorem respond_dataQ : (respond ok s).block.dataQ = s.block.dataQ := rfl
@[simp] theorem respond_ackQ : (respond ok s).block.ackQ = s.block.ackQ := rfl
@[simp] theorem respond_rspValid : (respond ok s).block.rspValid = true := rfl
@[simp] theorem respond_rspOk : (respond ok s).block.rspOk = ok := rfl
@[simp] theorem respond_commands : (respond ok s).commands = s.commands := rfl
@[simp] theorem respond_replies : (respond ok s).replies = s.replies := rfl
@[simp] theorem respond_resetIn : (respond ok s).resetIn = s.resetIn := rfl
@[simp] theorem respond_outside : (respond ok s).outside = s.outside := rfl
@[simp] theorem respond_draws : (respond ok s).draws = s.draws := rfl
@[simp] theorem respond_history : (respond ok s).history = s.history ++ [.responded ok] := rfl

/-! ### finish and abort -/

@[simp] theorem finish_stage : (finish ok s).block.stage = .idle := rfl
@[simp] theorem finish_attempt : (finish ok s).block.attempt = 0#4 := rfl
@[simp] theorem finish_opQ : (finish ok s).block.opQ = s.block.opQ := rfl
@[simp] theorem finish_addrQ : (finish ok s).block.addrQ = s.block.addrQ := rfl
@[simp] theorem finish_dataQ : (finish ok s).block.dataQ = s.block.dataQ := rfl
@[simp] theorem finish_ackQ : (finish ok s).block.ackQ = s.block.ackQ := rfl
@[simp] theorem finish_rspValid : (finish ok s).block.rspValid = true := rfl
@[simp] theorem finish_rspOk : (finish ok s).block.rspOk = ok := rfl
@[simp] theorem finish_commands : (finish ok s).commands = s.commands := rfl
@[simp] theorem finish_replies : (finish ok s).replies = s.replies := rfl
@[simp] theorem finish_resetIn : (finish ok s).resetIn = s.resetIn := rfl
@[simp] theorem finish_outside : (finish ok s).outside = s.outside := rfl
@[simp] theorem finish_draws : (finish ok s).draws = s.draws := rfl
@[simp] theorem finish_history : (finish ok s).history = s.history ++ [.responded ok] := rfl

theorem abort_eq : abort s = finish false s := rfl

/-! ### reset -/

@[simp] theorem applyReset_block : (applyReset s).block = Block.reset := rfl
@[simp] theorem applyReset_commands : (applyReset s).commands = s.commands := rfl
@[simp] theorem applyReset_replies : (applyReset s).replies = repliesAfterReset s := rfl
@[simp] theorem applyReset_resetIn : (applyReset s).resetIn = .released := rfl
@[simp] theorem applyReset_outside : (applyReset s).outside = s.outside := rfl
@[simp] theorem applyReset_draws : (applyReset s).draws = s.draws := rfl
@[simp] theorem applyReset_history : (applyReset s).history = s.history ++ resetEvents s := rfl

/-! ### the inputs -/

@[simp] theorem State.present_block : (s.present cmd).block = s.block := rfl
@[simp] theorem State.present_commands : (s.present cmd).commands = s.commands ++ [cmd] := rfl
@[simp] theorem State.withdraw_block : s.withdraw.block = s.block := rfl
@[simp] theorem State.withdraw_commands : s.withdraw.commands = s.commands.tail := rfl
@[simp] theorem State.assertReset_block (how : ResetInput) : (s.assertReset how).block = s.block := rfl
@[simp] theorem State.assertReset_resetIn (how : ResetInput) : (s.assertReset how).resetIn = how := rfl

end Sys2Proof.Machine
end

