-- ==== Sys2Proof/Laws/Ops.lean ====
section
/-! SUPPORT. What each shared operation can do, said once. -/

namespace Sys2Proof.Machine

/-! ### The stage tables -/

theorem xact_eq_none_iff (b : Block) : xact b = none ↔ b.stage = .idle := by
  cases h : b.stage <;> simp [xact, h]

theorem busy_iff (b : Block) : b.busy = true ↔ b.stage ≠ .idle := by
  simp [Block.busy]

theorem busy_eq_xact_isSome (b : Block) : b.busy = (xact b).isSome := by
  cases h : b.stage <;> simp [xact, h, Block.busy]

/-- Every transaction of a stage is a Register Reference's header, with a payload exactly for a write (R91). -/
theorem xact_regRef {b : Block} {tx : Transaction} (h : xact b = some tx) :
    ∃ r : RegRef, tx.header = r.header ∧ tx.payload.isSome = !r.dir.bit := by
  cases hs : b.stage <;> simp only [xact, hs, reduceCtorEq, Option.some.injEq] at h <;> subst h <;>
    exact ⟨_, rfl, rfl⟩

/-! ### The header rows all mean one use of the primitive -/

theorem exec_headerInstr (r : RegRef) (p : Option Payload) (s : State) :
    exec (headerInstr r p) s = rawTransfer r p s := by
  obtain ⟨k, d, sel⟩ := r
  have h : sel = 0#2 ∨ sel = 1#2 ∨ sel = 2#2 ∨ sel = 3#2 := by revert sel; decide
  rcases h with rfl | rfl | rfl | rfl <;> cases k <;> cases d <;> rfl

theorem exec_ackInstr (b : BitVec 3) (s : State) : exec (ackInstr b) s = .next (invoke b s) := by
  have h : b = 0#3 ∨ b = 1#3 ∨ b = 2#3 ∨ b = 3#3 ∨ b = 4#3 ∨ b = 5#3 ∨ b = 6#3 ∨ b = 7#3 := by
    revert b; decide
  rcases h with rfl | rfl | rfl | rfl | rfl | rfl | rfl | rfl <;> rfl

/-! ### The answer -/

theorem decodeAck_eq_ok_iff (b : BitVec 3) : decodeAck b = .ok ↔ b = config.ackOk := by
  revert b; decide

theorem decodeAck_eq_wait_iff (b : BitVec 3) : decodeAck b = .wait ↔ b = config.ackWait := by
  revert b; decide

theorem budgetLeft_iff (a : BitVec 4) : budgetLeft a = true ↔ a.toNat < 9 := by
  exact decide_eq_true_iff

/-- INVOKE from `IDLE` does nothing (R26). -/
theorem invoke_idle {s : State} (h : xact s.block = none) (b : BitVec 3) : invoke b s = s := by
  simp [invoke, h]

/-- INVOKE while busy (R117). -/
theorem invoke_busy {s : State} {tx : Transaction} (h : xact s.block = some tx) (b : BitVec 3) :
    invoke b s =
      conclude (verdict (decodeAck b) s.block.attempt (nextStage s.block.stage))
        { s with
          block := { s.block with ackQ := decodeAck b }
          history := s.history ++ [.invoked ⟨tx.header, tx.payload, b⟩] } := by
  simp [invoke, h]

/-- Which verdicts there are, and when (R117). -/
theorem verdict_cases (c : AckCode) (a : BitVec 4) (n : Option Stage) :
    (c = .wait ∧ a.toNat < 9 ∧ verdict c a n = .reissue) ∨
    (∃ st, c = .ok ∧ n = some st ∧ verdict c a n = .advance st) ∨
    (c = .ok ∧ n = none ∧ verdict c a n = .finish true) ∨
    (c ≠ .ok ∧ (c = .wait → ¬ a.toNat < 9) ∧ verdict c a n = .finish false) := by
  cases c
  · cases n <;> simp [verdict]
  · by_cases h : a.toNat < 9
    · simp [verdict, budgetLeft, config, h]
    · simp [verdict, budgetLeft, config, h]
  · simp [verdict]
  · simp [verdict]

/-- Everything INVOKE can do while busy, one case a branch of R117. -/
theorem invoke_cases {s : State} {tx : Transaction} (h : xact s.block = some tx) (b : BitVec 3) :
    (decodeAck b = .wait ∧ s.block.attempt.toNat < 9 ∧
      invoke b s = { s with
        block := { s.block with ackQ := .wait, attempt := s.block.attempt + 1#4 }
        history := s.history ++ [.invoked ⟨tx.header, tx.payload, b⟩] }) ∨
    (∃ st, decodeAck b = .ok ∧ nextStage s.block.stage = some st ∧
      invoke b s = { s with
        block := { s.block with ackQ := .ok, stage := st, attempt := 0#4 }
        history := s.history ++ [.invoked ⟨tx.header, tx.payload, b⟩] }) ∨
    (decodeAck b = .ok ∧ nextStage s.block.stage = none ∧
      invoke b s = { s with
        block := { s.block with
          ackQ := .ok, stage := .idle, attempt := 0#4, rspValid := true, rspOk := true }
        history := s.history ++ [.invoked ⟨tx.header, tx.payload, b⟩, .responded true] }) ∨
    (decodeAck b ≠ .ok ∧ (decodeAck b = .wait → ¬ s.block.attempt.toNat < 9) ∧
      invoke b s = { s with
        block := { s.block with
          ackQ := decodeAck b, stage := .idle, attempt := 0#4, rspValid := true, rspOk := false }
        history := s.history ++ [.invoked ⟨tx.header, tx.payload, b⟩, .responded false] }) := by
  rw [invoke_busy h]
  rcases verdict_cases (decodeAck b) s.block.attempt (nextStage s.block.stage) with
    ⟨h1, h2, hv⟩ | ⟨st, h1, h2, hv⟩ | ⟨h1, h2, hv⟩ | ⟨h1, h2, hv⟩
  · exact .inl ⟨h1, h2, by rw [hv, h1]; rfl⟩
  · exact .inr (.inl ⟨st, h1, h2, by rw [hv, h1]; rfl⟩)
  · exact .inr (.inr (.inl ⟨h1, h2, by rw [hv, h1]; simp [conclude, finish, respond]⟩))
  · exact .inr (.inr (.inr ⟨h1, h2, by rw [hv]; simp [conclude, abort, finish, respond]⟩))

/-- INVOKE touches the block and the history only. -/
theorem invoke_inputs (b : BitVec 3) (s : State) :
    (invoke b s).commands = s.commands ∧ (invoke b s).replies = s.replies ∧
      (invoke b s).resetIn = s.resetIn ∧ (invoke b s).outside = s.outside ∧ (invoke b s).draws = s.draws := by
  cases h : xact s.block with
  | none => simp [invoke_idle h]
  | some tx =>
    rcases invoke_cases h b with ⟨-, -, e⟩ | ⟨st, -, -, e⟩ | ⟨-, -, e⟩ | ⟨-, -, e⟩ <;> simp [e]

/-- INVOKE leaves the operand latches alone (R23). -/
theorem invoke_latches (b : BitVec 3) (s : State) :
    (invoke b s).block.opQ = s.block.opQ ∧ (invoke b s).block.addrQ = s.block.addrQ ∧
      (invoke b s).block.dataQ = s.block.dataQ := by
  cases h : xact s.block with
  | none => simp [invoke_idle h]
  | some tx =>
    rcases invoke_cases h b with ⟨-, -, e⟩ | ⟨st, -, -, e⟩ | ⟨-, -, e⟩ | ⟨-, -, e⟩ <;> simp [e]

/-! ### The primitive -/

theorem drawReply_cons {s : State} {r : Reply} {rs : List Reply} (h : s.replies = r :: rs) :
    drawReply s = (r, { s with replies := rs }) := by
  simp [drawReply, h]

theorem drawReply_nil {s : State} (h : s.replies = []) :
    drawReply s =
      (.returns (Config.freeAck s.draws) (Config.freeRdata s.draws), { s with draws := s.draws + 1 }) := by
  simp [drawReply, h]

/-- A draw touches the replies and the counter only. -/
theorem drawReply_state (s : State) :
    (drawReply s).2.block = s.block ∧ (drawReply s).2.commands = s.commands ∧
      (drawReply s).2.resetIn = s.resetIn ∧ (drawReply s).2.outside = s.outside ∧
      (drawReply s).2.history = s.history := by
  unfold drawReply
  split <;> simp

/-- A payload exactly for a write is no misfit (R91). -/
theorem payload_fits {r : RegRef} {p : Option Payload} (hp : p.isSome = !r.dir.bit) : ¬ p.isSome = r.dir.bit := by
  rw [hp]; cases r.dir.bit <;> decide

theorem withAnswer_next {k : BitVec 3 → State → State} {s t : State} (e : withAnswer k s = .next t) :
    ∃ b d u, drawReply s = (.returns b d, u) ∧ t = k b u := by
  unfold withAnswer at e
  split at e
  · cases e
  · rename_i b d u hd
    cases e
    exact ⟨b, d, u, hd, rfl⟩

theorem withAnswer_returns {k : BitVec 3 → State → State} {s : State} {b : BitVec 3} {d : Word} {rs : List Reply}
    (h : s.replies = .returns b d :: rs) : withAnswer k s = .next (k b { s with replies := rs }) := by
  simp [withAnswer, drawReply_cons h]

theorem withAnswer_never {k : BitVec 3 → State → State} {s : State} {rs : List Reply} (h : s.replies = .never :: rs) :
    withAnswer k s = .fault .primitiveNeverReturns := by
  simp [withAnswer, drawReply_cons h]

theorem withAnswer_free {k : BitVec 3 → State → State} {s : State} (h : s.replies = []) :
    withAnswer k s = .next (k (Config.freeAck s.draws) { s with draws := s.draws + 1 }) := by
  simp [withAnswer, drawReply_nil h]

/-- On an idle block a transaction is another agent's (log 7). -/
theorem rawTransfer_idle {s : State} {r : RegRef} {p : Option Payload} (hx : xact s.block = none)
    (hp : p.isSome = !r.dir.bit) :
    rawTransfer r p s = withAnswer (fun b t => t.record [.outside ⟨r.header, p, b⟩]) s := by
  simp [rawTransfer, payload_fits hp, hx]

/-- The stage's own transaction is INVOKE (R117). -/
theorem rawTransfer_own {s : State} {r : RegRef} {p : Option Payload} (hx : xact s.block = some ⟨r.header, p⟩)
    (hp : p.isSome = !r.dir.bit) : rawTransfer r p s = withAnswer invoke s := by
  simp [rawTransfer, payload_fits hp, hx]

/-- Any other is refused (U1). -/
theorem rawTransfer_foreign {s : State} {r : RegRef} {p : Option Payload} {tx : Transaction}
    (hx : xact s.block = some tx) (hp : p.isSome = !r.dir.bit) (hne : tx ≠ ⟨r.header, p⟩) :
    rawTransfer r p s = .refused .foreignTransaction := by
  simp [rawTransfer, payload_fits hp, hx, hne]

/-- Everything a use of the primitive can do when it goes on (R110, R225). -/
theorem rawTransfer_next {r : RegRef} {p : Option Payload} {s t : State} (e : rawTransfer r p s = .next t) :
    ∃ b d u, drawReply s = (.returns b d, u) ∧
      ((xact s.block = none ∧ t = u.record [.outside ⟨r.header, p, b⟩]) ∨
        (xact s.block = some ⟨r.header, p⟩ ∧ t = invoke b u)) := by
  unfold rawTransfer at e
  split at e
  · cases e
  · split at e
    · rename_i hx
      obtain ⟨b, d, u, hd, ht⟩ := withAnswer_next e
      exact ⟨b, d, u, hd, .inl ⟨hx, ht⟩⟩
    · rename_i tx hx
      split at e
      · rename_i htx
        subst htx
        obtain ⟨b, d, u, hd, ht⟩ := withAnswer_next e
        exact ⟨b, d, u, hd, .inr ⟨hx, ht⟩⟩
      · cases e

/-! ### ACCEPT -/

/-- The effect of accepting a record on an idle block (R81, R82). -/
theorem exec_commandInstr_idle {s : State} (h : s.block.stage = .idle) (op : BitVec 2) (a d : Word) :
    exec (commandInstr op a d) s = .next
      (if op = 0b00#2 then accept ⟨op, a, d⟩ .dpWr s
       else if op = 0b01#2 then accept ⟨op, a, d⟩ .apSel s
       else if op = 0b10#2 then accept ⟨op, a, d⟩ .wwSel s
       else respond false (accept ⟨op, a, d⟩ .idle s)) := by
  have hb : s.block.busy = false := by simp [Block.busy, h]
  have ho : op = 0#2 ∨ op = 1#2 ∨ op = 2#2 ∨ op = 3#2 := by revert op; decide
  rcases ho with rfl | rfl | rfl | rfl <;>
    simp [commandInstr, exec, execWriteDp, execWriteAp, execWriteWord, execReserved, acceptIfIdle, hb]

/-- A busy block takes no command (R204). -/
theorem exec_commandInstr_busy {s : State} (h : s.block.stage ≠ .idle) (op : BitVec 2) (a d : Word) :
    exec (commandInstr op a d) s = .next s := by
  have hb : s.block.busy = true := (busy_iff _).2 h
  have ho : op = 0#2 ∨ op = 1#2 ∨ op = 2#2 ∨ op = 3#2 := by revert op; decide
  rcases ho with rfl | rfl | rfl | rfl <;>
    simp [commandInstr, exec, execWriteDp, execWriteAp, execWriteWord, execReserved, acceptIfIdle, hb]

end Sys2Proof.Machine
end

