-- ==== Sys2Proof/Laws/PerInstr.lean ====
section
/-! SUPPORT. One statement for every instruction, one lemma per constructor: the encoding of a well-formed instruction has its
format's one fixed length (spec/30_encoding.md R96). -/

namespace Sys2Proof.Laws.EncodedLength

/-- The bytes of each format (R96; log 3): nine for a command record, five for a write header with its payload, one for a read
header, one for an acknowledge pattern. -/
def formatBytes : Instr → Nat
  | .writeDp _ _ | .writeAp _ _ | .writeWord _ _ | .reserved _ _ => 9
  | .hdrDpW0 _ | .hdrDpW4 _ | .hdrDpW8 _ | .hdrDpWC _
  | .hdrApW0 _ | .hdrApW4 _ | .hdrApW8 _ | .hdrApWC _ => 5
  | .hdrDpR0 _ | .hdrDpR4 _ | .hdrDpR8 _ | .hdrDpRC _
  | .hdrApR0 _ | .hdrApR4 _ | .hdrApR8 _ | .hdrApRC _ => 1
  | .ackProtocolError000 | .ackOk001 | .ackWait010 | .ackProtocolError011
  | .ackFault100 | .ackProtocolError101 | .ackProtocolError110 | .ackProtocolError111 => 1

/-- The family's statement. -/
def Statement (i : Instr) : Prop :=
  i.wellFormed = true → (encode i).length = formatBytes i

/-- A write header's bytes. -/
theorem write_length {h : Byte} {p : Option Payload} (hp : p.isSome = true) : (transactionBytes h p).length = 5 := by
  cases p with
  | none => cases hp
  | some q => rfl

/-- A read header's byte. -/
theorem read_length {h : Byte} {p : Option Payload} (hp : p.isNone = true) : (transactionBytes h p).length = 1 := by
  cases p with
  | none => rfl
  | some q => cases hp

theorem writeDp (addr data : Word) : Statement (.writeDp addr data) := fun _ => rfl
theorem writeAp (addr data : Word) : Statement (.writeAp addr data) := fun _ => rfl
theorem writeWord (addr data : Word) : Statement (.writeWord addr data) := fun _ => rfl
theorem reserved (addr data : Word) : Statement (.reserved addr data) := fun _ => rfl
theorem hdrDpW0 (payload : Option Payload) : Statement (.hdrDpW0 payload) := fun h => write_length h
theorem hdrDpW4 (payload : Option Payload) : Statement (.hdrDpW4 payload) := fun h => write_length h
theorem hdrDpW8 (payload : Option Payload) : Statement (.hdrDpW8 payload) := fun h => write_length h
theorem hdrDpWC (payload : Option Payload) : Statement (.hdrDpWC payload) := fun h => write_length h
theorem hdrApW0 (payload : Option Payload) : Statement (.hdrApW0 payload) := fun h => write_length h
theorem hdrApW4 (payload : Option Payload) : Statement (.hdrApW4 payload) := fun h => write_length h
theorem hdrApW8 (payload : Option Payload) : Statement (.hdrApW8 payload) := fun h => write_length h
theorem hdrApWC (payload : Option Payload) : Statement (.hdrApWC payload) := fun h => write_length h
theorem hdrDpR0 (payload : Option Payload) : Statement (.hdrDpR0 payload) := fun h => read_length h
theorem hdrDpR4 (payload : Option Payload) : Statement (.hdrDpR4 payload) := fun h => read_length h
theorem hdrDpR8 (payload : Option Payload) : Statement (.hdrDpR8 payload) := fun h => read_length h
theorem hdrDpRC (payload : Option Payload) : Statement (.hdrDpRC payload) := fun h => read_length h
theorem hdrApR0 (payload : Option Payload) : Statement (.hdrApR0 payload) := fun h => read_length h
theorem hdrApR4 (payload : Option Payload) : Statement (.hdrApR4 payload) := fun h => read_length h
theorem hdrApR8 (payload : Option Payload) : Statement (.hdrApR8 payload) := fun h => read_length h
theorem hdrApRC (payload : Option Payload) : Statement (.hdrApRC payload) := fun h => read_length h
theorem ackProtocolError000 : Statement .ackProtocolError000 := fun _ => rfl
theorem ackOk001 : Statement .ackOk001 := fun _ => rfl
theorem ackWait010 : Statement .ackWait010 := fun _ => rfl
theorem ackProtocolError011 : Statement .ackProtocolError011 := fun _ => rfl
theorem ackFault100 : Statement .ackFault100 := fun _ => rfl
theorem ackProtocolError101 : Statement .ackProtocolError101 := fun _ => rfl
theorem ackProtocolError110 : Statement .ackProtocolError110 := fun _ => rfl
theorem ackProtocolError111 : Statement .ackProtocolError111 := fun _ => rfl

end Sys2Proof.Laws.EncodedLength
end

