-- ==== Sys2Proof/Laws/Step.lean ====
section
/-! SUPPORT. What one step can do, said once: the bytes a step fetches, the instruction they are, and the five ways a step goes
on. Later proofs cite these and unfold neither step nor fetch. -/

namespace Sys2Proof.Machine

/-! ### The three ports -/

/-- Reset comes first (R220). -/
theorem step_of_reset {s : State} (h : s.resetIn ≠ .released) : step s = .next (applyReset s) := by
  simp [step, h]

/-- Another agent's transaction during a command is refused (U1). -/
theorem step_of_intrusion {s : State} {o : Transaction} (hr : s.resetIn = .released) (ho : s.outside = some o)
    (hb : s.block.stage ≠ .idle) : step s = .refused .foreignTransaction := by
  simp [step, hr, intrusion, ho, (busy_iff _).2 hb]

/-- Another agent's transaction on an idle block's primitive (R223, log 7). -/
theorem step_of_outside {s : State} {o : Transaction} (hr : s.resetIn = .released) (ho : s.outside = some o)
    (hi : s.block.stage = .idle) :
    step s = match decodeTransaction o.header o.payload with
      | .error e => .refused (.undecodable e)
      | .ok i => exec i { s with outside := none } := by
  have hnot : intrusion s = false := by simp [intrusion, Block.busy, hi]
  have hf : fetch s = some (decodeTransaction o.header o.payload) := by simp [fetch, ho]
  have ht : taken s = { s with outside := none } := by simp [taken, ho]
  rw [step, if_pos hr, hnot, if_neg (by simp), hf, ht]
  cases decodeTransaction o.header o.payload <;> rfl

theorem not_intrusion_of_outside_none {s : State} (ho : s.outside = none) : intrusion s = false := by
  simp [intrusion, ho]

/-- An idle block with nothing presented waits (R26). -/
theorem step_waits {s : State} (hr : s.resetIn = .released) (ho : s.outside = none) (hi : s.block.stage = .idle)
    (hc : s.commands = []) : step s = .next s := by
  have hx := (xact_eq_none_iff _).2 hi
  simp [step, hr, not_intrusion_of_outside_none ho, fetch, ho, hx, hc]

/-- An idle block runs the command presented (R81). -/
theorem step_of_command {s : State} {r : CmdRecord} {cs : List CmdRecord} (hr : s.resetIn = .released)
    (ho : s.outside = none) (hi : s.block.stage = .idle) (hc : s.commands = r :: cs) :
    step s = exec (commandInstr r.op r.addr r.data) { s with commands := cs } := by
  have hx := (xact_eq_none_iff _).2 hi
  have hf : fetch s = some (.ok (commandInstr r.op r.addr r.data)) := by
    simp [fetch, ho, hx, hc, CmdRecord.bytes, decode_commandBytes]
  have ht : taken s = { s with commands := cs } := by simp [taken, ho, hx, hc]
  simp only [step, hr, not_intrusion_of_outside_none ho, hf, ht]
  simp

/-- A busy block whose primitive returns a listed pattern performs INVOKE with it (R117). -/
theorem step_of_answer {s : State} {b : BitVec 3} {d : Word} {rs : List Reply} (hr : s.resetIn = .released)
    (ho : s.outside = none) (hb : s.block.stage ≠ .idle) (hp : s.replies = .returns b d :: rs) :
    step s = .next (invoke b { s with replies := rs }) := by
  cases hx : xact s.block with
  | none => exact absurd ((xact_eq_none_iff _).1 hx) hb
  | some tx =>
    have hf : fetch s = some (.ok (ackInstr b)) := by simp [fetch, ho, hx, hp, decode_ackBytes]
    have ht : taken s = { s with replies := rs } := by simp [taken, ho, hx, hp]
    simp only [step, hr, not_intrusion_of_outside_none ho, hf, ht, exec_ackInstr]
    simp

/-- A busy block with no returned pattern listed runs its stage's transaction on the primitive. -/
theorem step_of_own {s : State} {tx : Transaction} (hr : s.resetIn = .released) (ho : s.outside = none)
    (hx : xact s.block = some tx) (hp : ∀ b d rs, s.replies ≠ .returns b d :: rs) :
    step s = withAnswer invoke s := by
  obtain ⟨r, hh, hpay⟩ := xact_regRef hx
  have hf : fetch s = some (.ok (headerInstr r tx.payload)) := by
    rw [← decodeTransaction_header r _ hpay, ← hh]
    simp only [fetch, ho, hx]
  have ht : taken s = s := by
    simp only [taken, ho, hx]
  have hx' : xact s.block = some ⟨r.header, tx.payload⟩ := by rw [hx, ← hh]
  simp only [step, hr, not_intrusion_of_outside_none ho, hf, ht, exec_headerInstr, rawTransfer_own hx' hpay]
  simp

/-- The same with the replies used up: INVOKE with a free answer (R110, log 5). -/
theorem step_of_free_answer {s : State} (hr : s.resetIn = .released) (ho : s.outside = none)
    (hb : s.block.stage ≠ .idle) (hp : s.replies = []) :
    step s = .next (invoke (Config.freeAck s.draws) { s with draws := s.draws + 1 }) := by
  cases hx : xact s.block with
  | none => exact absurd ((xact_eq_none_iff _).1 hx) hb
  | some tx => rw [step_of_own hr ho hx (by simp [hp]), withAnswer_free hp]

/-- The primitive does not return: no step is enabled (U7). -/
theorem step_of_never {s : State} {rs : List Reply} (hr : s.resetIn = .released) (ho : s.outside = none)
    (hb : s.block.stage ≠ .idle) (hp : s.replies = .never :: rs) :
    step s = .fault .primitiveNeverReturns := by
  cases hx : xact s.block with
  | none => exact absurd ((xact_eq_none_iff _).1 hx) hb
  | some tx => rw [step_of_own hr ho hx (by simp [hp]), withAnswer_never hp]

/-- A busy step in one equation: draw a reply, then INVOKE (R110, R117) or, if it never comes, no step (U7). -/
theorem step_busy {s : State} (hr : s.resetIn = .released) (ho : s.outside = none) (hb : s.block.stage ≠ .idle) :
    step s = match drawReply s with
      | (.returns b _, u) => .next (invoke b u)
      | (.never, _) => .fault .primitiveNeverReturns := by
  cases hp : s.replies with
  | nil => rw [step_of_free_answer hr ho hb hp, drawReply_nil hp]
  | cons r rs =>
    cases r with
    | never => rw [step_of_never hr ho hb hp, drawReply_cons hp]
    | returns b d => rw [step_of_answer hr ho hb hp, drawReply_cons hp]

/-- The record an idle block accepts, as one function of the record (R81, R82). -/
def accepted (r : CmdRecord) (s : State) : State :=
  if r.op = 0b00#2 then accept r .dpWr s
  else if r.op = 0b01#2 then accept r .apSel s
  else if r.op = 0b10#2 then accept r .wwSel s
  else respond false (accept r .idle s)

theorem step_accepts {s : State} {r : CmdRecord} {cs : List CmdRecord} (hr : s.resetIn = .released)
    (ho : s.outside = none) (hi : s.block.stage = .idle) (hc : s.commands = r :: cs) :
    step s = .next (accepted r { s with commands := cs }) := by
  rw [step_of_command hr ho hi hc, exec_commandInstr_idle (by exact hi)]
  rfl

/-- The five ways a step goes on. -/
theorem step_next_cases {s t : State} (h : step s = .next t) :
    (s.resetIn ≠ .released ∧ t = applyReset s) ∨
    (s.resetIn = .released ∧ s.outside = none ∧ s.block.stage = .idle ∧ s.commands = [] ∧ t = s) ∨
    (∃ r cs, s.resetIn = .released ∧ s.outside = none ∧ s.block.stage = .idle ∧ s.commands = r :: cs ∧
      t = accepted r { s with commands := cs }) ∨
    (∃ b d u, s.resetIn = .released ∧ s.outside = none ∧ s.block.stage ≠ .idle ∧
      drawReply s = (.returns b d, u) ∧ t = invoke b u) ∨
    (∃ o b d u, s.resetIn = .released ∧ s.outside = some o ∧ s.block.stage = .idle ∧
      drawReply { s with outside := none } = (.returns b d, u) ∧
      t = u.record [.outside ⟨o.header, o.payload, b⟩]) := by
  by_cases hr : s.resetIn = .released
  swap
  · rw [step_of_reset hr] at h; cases h; exact .inl ⟨hr, rfl⟩
  refine .inr ?_
  cases ho : s.outside with
  | some o =>
    by_cases hi : s.block.stage = .idle
    swap
    · rw [step_of_intrusion hr ho hi] at h; cases h
    rw [step_of_outside hr ho hi] at h
    cases hd : decodeTransaction o.header o.payload with
    | error e => rw [hd] at h; cases h
    | ok i =>
      rw [hd] at h
      obtain ⟨r, hh, hpay, rfl⟩ := decodeTransaction_ok hd
      dsimp only at h
      rw [exec_headerInstr] at h
      obtain ⟨b, d, u, hdr, hx⟩ := rawTransfer_next h
      have hx0 : xact s.block = none := (xact_eq_none_iff _).2 hi
      rcases hx with ⟨-, rfl⟩ | ⟨hx, -⟩
      · exact .inr (.inr (.inr ⟨o, b, d, u, hr, rfl, hi, hdr, by rw [hh]⟩))
      · rw [show xact ({ s with outside := none } : State).block = none from hx0] at hx; cases hx
  | none =>
    by_cases hi : s.block.stage = .idle
    · cases hc : s.commands with
      | nil => rw [step_waits hr ho hi hc] at h; cases h; exact .inl ⟨hr, rfl, hi, rfl, rfl⟩
      | cons r cs =>
        rw [step_accepts hr ho hi hc] at h; cases h
        exact .inr (.inl ⟨r, cs, hr, rfl, hi, rfl, by rw [ho]⟩)
    · refine .inr (.inr (.inl ?_))
      cases hp : s.replies with
      | nil =>
        rw [step_of_free_answer hr ho hi hp] at h; cases h
        exact ⟨_, _, _, hr, rfl, hi, drawReply_nil hp, rfl⟩
      | cons r rs =>
        cases r with
        | never => rw [step_of_never hr ho hi hp] at h; cases h
        | returns b d =>
          rw [step_of_answer hr ho hi hp] at h; cases h
          exact ⟨b, d, _, hr, rfl, hi, drawReply_cons hp, rfl⟩

end Sys2Proof.Machine
end

