-- ==== Sys2Proof/Tests/Slice0.lean ====
section
/-! SUPPORT. The model's own tests: expected values from the spec's tables and vectors (spec/30_encoding.md, spec/95_test_vectors.md),
and for every obligation with hypotheses a witness that meets them. -/

namespace Sys2Proof.Tests

open Sys2Proof Sys2Proof.Machine

/-! ### Well-formedness: the one check (R91), refused for each row -/

def someBytes : Payload := ⟨0x78#8, 0x56#8, 0x34#8, 0x12#8⟩

theorem test_writeHeadersNeedTheirPayload :
    ([.hdrDpW0 none, .hdrDpW4 none, .hdrDpW8 none, .hdrDpWC none,
      .hdrApW0 none, .hdrApW4 none, .hdrApW8 none, .hdrApWC none] : List Instr).all (fun i => !i.wellFormed) = true := by
  decide

theorem test_readHeadersTakeNoPayload :
    ([.hdrDpR0 (some someBytes), .hdrDpR4 (some someBytes), .hdrDpR8 (some someBytes), .hdrDpRC (some someBytes),
      .hdrApR0 (some someBytes), .hdrApR4 (some someBytes), .hdrApR8 (some someBytes),
      .hdrApRC (some someBytes)] : List Instr).all (fun i => !i.wellFormed) = true := by
  decide

/-! ### Decoding: every row's word, written out from R80, R81, R89 and R92 -/

/-- Programs A to D of spec/95: `0_00000004_50000000`, `1_010000F8_00000001`, `2_E000EDF0_A05F0003`, `3_00000000_00000000`. -/
theorem test_commandRecordsDecode :
    decodeTableWord 72 0x00000000450000000 = some (.writeDp 0x00000004#32 0x50000000#32) ∧
    decodeTableWord 72 0x1010000F800000001 = some (.writeAp 0x010000F8#32 0x00000001#32) ∧
    decodeTableWord 72 0x2E000EDF0A05F0003 = some (.writeWord 0xE000EDF0#32 0xA05F0003#32) ∧
    decodeTableWord 72 0x30000000000000000 = some (.reserved 0#32 0#32) := by
  decide

/-- R89's "bits 7..0" of the four DP and the four AP writes, each with the payload of R90's example. -/
theorem test_writeHeadersDecode :
    decodeTableWord 40 0x1234567881 = some (.hdrDpW0 (some someBytes)) ∧
    decode [0b10000001#8, 0x78#8, 0x56#8, 0x34#8, 0x12#8] = .ok (.hdrDpW0 (some someBytes)) ∧
    decode [0b10101001#8, 0x78#8, 0x56#8, 0x34#8, 0x12#8] = .ok (.hdrDpW4 (some someBytes)) ∧
    decode [0b10110001#8, 0x78#8, 0x56#8, 0x34#8, 0x12#8] = .ok (.hdrDpW8 (some someBytes)) ∧
    decode [0b10011001#8, 0x78#8, 0x56#8, 0x34#8, 0x12#8] = .ok (.hdrDpWC (some someBytes)) ∧
    decode [0b10100011#8, 0x78#8, 0x56#8, 0x34#8, 0x12#8] = .ok (.hdrApW0 (some someBytes)) ∧
    decode [0b10001011#8, 0x78#8, 0x56#8, 0x34#8, 0x12#8] = .ok (.hdrApW4 (some someBytes)) ∧
    decode [0b10010011#8, 0x78#8, 0x56#8, 0x34#8, 0x12#8] = .ok (.hdrApW8 (some someBytes)) ∧
    decode [0b10111011#8, 0x78#8, 0x56#8, 0x34#8, 0x12#8] = .ok (.hdrApWC (some someBytes)) := by
  decide

theorem test_readHeadersDecode :
    decodeTableWord 8 0b10100101 = some (.hdrDpR0 none) ∧ decodeTableWord 8 0b10001101 = some (.hdrDpR4 none) ∧
    decodeTableWord 8 0b10010101 = some (.hdrDpR8 none) ∧ decodeTableWord 8 0b10111101 = some (.hdrDpRC none) ∧
    decodeTableWord 8 0b10000111 = some (.hdrApR0 none) ∧ decodeTableWord 8 0b10101111 = some (.hdrApR4 none) ∧
    decodeTableWord 8 0b10110111 = some (.hdrApR8 none) ∧ decodeTableWord 8 0b10011111 = some (.hdrApRC none) := by
  decide

theorem test_acknowledgePatternsDecode :
    decodeTableWord 8 0b000 = some .ackProtocolError000 ∧ decodeTableWord 8 0b001 = some .ackOk001 ∧
    decodeTableWord 8 0b010 = some .ackWait010 ∧ decodeTableWord 8 0b011 = some .ackProtocolError011 ∧
    decodeTableWord 8 0b100 = some .ackFault100 ∧ decodeTableWord 8 0b101 = some .ackProtocolError101 ∧
    decodeTableWord 8 0b110 = some .ackProtocolError110 ∧ decodeTableWord 8 0b111 = some .ackProtocolError111 := by
  decide

/-- Every way of being no word, by its name: lengths (R96), a 67th record bit (R80), Start, Stop and Park (R87), parity (R88),
payload against direction (R91). -/
theorem test_rejectedByName :
    decode [] = .error (.badLength 0) ∧ decode [0x81#8, 0#8] = .error (.badLength 2) ∧
    decode [0#8, 0#8, 0#8, 0#8, 0#8, 0#8, 0#8, 0#8, 4#8] = .error .recordPadding ∧
    decode [0x80#8] = .error .headerFraming ∧ decode [0xC1#8] = .error .headerFraming ∧
    decode [0x3D#8] = .error .headerFraming ∧ decode [0xA1#8] = .error .headerParity ∧
    decode [0x81#8] = .error .payloadMissing ∧ decode [0xBD#8, 0#8, 0#8, 0#8, 0#8] = .error .payloadOnRead := by
  decide

/-- The layout is configuration (R7, D6): with APnDP and RnW exchanged, `hdr(AP, W, 0)` has bits 0, 2, 5 and 7 by hand. -/
theorem test_headerLayoutIsConfiguration :
    let l : HeaderLayout := { headerLayout with kindBit := 2, dirBit := 1 }
    headerIn l ⟨.ap, .write, 0b00#2⟩ = 0b10100101#8 ∧
    decodeHeaderIn l 0b10100101#8 = .ok ⟨.ap, .write, 0b00#2⟩ ∧
    decodeHeaderIn headerLayout 0b10100101#8 = .ok ⟨.dp, .read, 0b00#2⟩ := by
  decide

/-- The encoder, against the same tables. -/
theorem test_encodedWords :
    encode (.writeWord 0x20000000#32 0xDEADBEEF#32) =
      [0xEF#8, 0xBE#8, 0xAD#8, 0xDE#8, 0x00#8, 0x00#8, 0x00#8, 0x20#8, 0x02#8] ∧
    encode (.hdrApWC (some (leBytes 0xDEADBEEF#32))) = [0xBB#8, 0xEF#8, 0xBE#8, 0xAD#8, 0xDE#8] ∧
    encode (.hdrDpRC none) = [0xBD#8] ∧ encode .ackWait010 = [0x02#8] := by
  decide

/-! ### The encoding functions: V1 to V25 of spec/95 -/

theorem test_leBytes_V1_V5 :
    leBytes 0x00000000#32 = ⟨0x00#8, 0x00#8, 0x00#8, 0x00#8⟩ ∧ leBytes 0xFFFFFFFF#32 = ⟨0xFF#8, 0xFF#8, 0xFF#8, 0xFF#8⟩ ∧
    leBytes 0x00000001#32 = ⟨0x01#8, 0x00#8, 0x00#8, 0x00#8⟩ ∧ leBytes 0x80000000#32 = ⟨0x00#8, 0x00#8, 0x00#8, 0x80#8⟩ ∧
    leBytes cswval = ⟨0x52#8, 0x00#8, 0x00#8, 0x23#8⟩ := by
  decide

theorem test_selval_V6_V10 :
    selval 0x00000000#32 = 0x00000000#32 ∧ selval 0x010000F8#32 = 0x010000F0#32 ∧
    selval 0xFFFFFFFF#32 = 0xFF0000F0#32 ∧ selval 0x00FFFF0F#32 = 0x00000000#32 ∧
    selval 0x8000001C#32 = 0x80000010#32 := by
  decide

theorem test_hdr_V11_V18 :
    hdrAt .dp .write 0x08#32 = 0xB1#8 ∧ hdrAt .dp .read 0x0C#32 = 0xBD#8 ∧ hdrAt .ap .write 0x00#32 = 0xA3#8 ∧
    hdrAt .ap .write 0x04#32 = 0x8B#8 ∧ hdrAt .ap .write 0x0C#32 = 0xBB#8 ∧ hdrAt .ap .write 0x010000F8#32 = 0x93#8 ∧
    hdrAt .dp .write (dpAddr 0xFF#8) = 0x99#8 ∧ hdrAt .dp .write (dpAddr 0x03#8) = 0x81#8 := by
  decide

theorem test_decodeAck_V19_V22 :
    decodeAck 0b001#3 = .ok ∧ decodeAck 0b010#3 = .wait ∧ decodeAck 0b100#3 = .fault ∧
    decodeAck 0b000#3 = .protocolError ∧ decodeAck 0b011#3 = .protocolError ∧ decodeAck 0b101#3 = .protocolError ∧
    decodeAck 0b110#3 = .protocolError ∧ decodeAck 0b111#3 = .protocolError := by
  decide

theorem test_parity_V23_V25 :
    headerParity ⟨.dp, .write, 0b00#2⟩ = false ∧ headerParity ⟨.dp, .read, 0b11#2⟩ = true ∧
    headerParity ⟨.ap, .read, 0b11#2⟩ = false := by
  decide

/-! ### The call formulation: V30 to V34 and S7's fifth transaction -/

theorem test_xfer_V30_V31_V33_V34 :
    (xfer ⟨0x81#8, some someBytes⟩ [0b010#3, 0b010#3, 0b001#3]).map (fun r => (r.value, r.invocations.length)) =
      some (.ok, 3) ∧
    (xfer ⟨0x81#8, some someBytes⟩ (List.replicate 9 0b010#3 ++ [0b001#3])).map
      (fun r => (r.value, r.invocations.length)) = some (.ok, 10) ∧
    (xfer ⟨0x81#8, some someBytes⟩ (List.replicate 12 0b010#3)).map (fun r => (r.value, r.invocations.length)) =
      some (.wait, 10) ∧
    (xfer ⟨0x81#8, some someBytes⟩ [0b010#3, 0b011#3]).map (fun r => (r.value, r.invocations.length)) =
      some (.protocolError, 2) := by
  decide

theorem test_writeWord_S7 :
    ((writeWordCall 0x20000000#32 0xDEADBEEF#32 (List.replicate 6 0b001#3)).map (fun r => r.invocations[4]?)) =
      some (some ⟨0xBB#8, some ⟨0xEF#8, 0xBE#8, 0xAD#8, 0xDE#8⟩, 0b001#3⟩) := by
  decide

/-! ### One step -/

/-- A block at a stage of a command, on a machine whose inputs are quiet but for these replies. -/
def at_ (st : Stage) (op : BitVec 2) (addr data : Word) (attempt : BitVec 4) (replies : List Reply) : State :=
  { State.reset with
    block := { Block.reset with stage := st, attempt := attempt, opQ := op, addrQ := addr, dataQ := data }
    replies := replies }

def ok : Reply := .returns 0b001#3 0#32
def wait : Reply := .returns 0b010#3 0#32
def fault : Reply := .returns 0b100#3 0#32

/-- The state of a step that goes on; the reset state stands in for a stop, which no test here meets. -/
def after (s : State) : State :=
  match step s with
  | .next t => t
  | _ => { State.reset with draws := 99 }

/-- V59: ACCEPT clears the earlier response, and V57: reset's three values. -/
theorem test_accept_V59 :
    (after { State.reset with
      block := { Block.reset with rspValid := true, rspOk := true }
      commands := [⟨0b00#2, 0x04#32, 0x50000000#32⟩] }).block =
      { stage := .dpWr, attempt := 0#4, opQ := 0b00#2, addrQ := 0x04#32, dataQ := 0x50000000#32, ackQ := .ok,
        rspValid := false, rspOk := true } := by
  decide

/-- V55: the reserved command. -/
theorem test_reserved_V55 :
    (after { State.reset with commands := [⟨0b11#2, 1#32, 2#32⟩] }).history =
      [.accepted ⟨0b11#2, 1#32, 2#32⟩, .responded false] ∧
    (after { State.reset with commands := [⟨0b11#2, 1#32, 2#32⟩] }).block.stage = .idle := by
  decide

/-- V30's steps: a WAIT at attempt 1, and the OK at attempt 2 that completes a `WRITE_DP`. -/
theorem test_invoke_V30 :
    (after (at_ .dpWr 0b00#2 0x08#32 0x12345678#32 1#4 [wait])).block.attempt = 2#4 ∧
    (after (at_ .dpWr 0b00#2 0x08#32 0x12345678#32 2#4 [ok])).history =
      [.invoked ⟨0xB1#8, some ⟨0x78#8, 0x56#8, 0x34#8, 0x12#8⟩, 0b001#3⟩, .responded true] := by
  decide

/-- V33's last step: the WAIT answered at attempt 9 performs `respond(0)`; at attempt 8 it does not. -/
theorem test_invoke_V33 :
    (after (at_ .dpWr 0b00#2 0#32 0#32 9#4 [wait])).history.getLast? = some (.responded false) ∧
    (after (at_ .dpWr 0b00#2 0#32 0#32 8#4 [wait])).block.attempt = 9#4 := by
  decide

/-- V42's fourth invocation (TAR answered FAULT) and V52's sixth (the flush answered `0b101`). -/
theorem test_abort_V42_V52 :
    (after (at_ .wwTar 0b10#2 0x20000000#32 0xDEADBEEF#32 0#4 [fault])).history =
      [.invoked ⟨0x8B#8, some ⟨0x00#8, 0x00#8, 0x00#8, 0x20#8⟩, 0b100#3⟩, .responded false] ∧
    (after (at_ .wwFlush 0b10#2 0x20000000#32 0xDEADBEEF#32 0#4 [.returns 0b101#3 0#32])).history =
      [.invoked ⟨0xBD#8, none, 0b101#3⟩, .responded false] := by
  decide

/-- V56: a command presented in `WW_TAR` is not taken. -/
theorem test_busy_V56 :
    (after { at_ .wwTar 0b10#2 0#32 0#32 0#4 [ok] with commands := [⟨0b00#2, 0#32, 0#32⟩] }).commands =
      [⟨0b00#2, 0#32, 0#32⟩] ∧
    (after { at_ .wwTar 0b10#2 0#32 0#32 0#4 [ok] with commands := [⟨0b00#2, 0#32, 0#32⟩] }).block.stage = .wwDrw := by
  decide

/-- V58: reset in `WW_DRW` at attempt 3. -/
theorem test_reset_V58 :
    let t := after { at_ .wwDrw 0b10#2 0#32 0#32 3#4 [ok] with resetIn := .betweenInvocations }
    t.block.stage = .idle ∧ t.block.attempt = 0#4 ∧ t.block.rspValid = false ∧ t.history = [.abandoned] := by
  decide

/-! ### withFetchWord: the very next step runs the word -/

theorem test_fetchCommand :
    (after (State.reset.withFetchWord 72 0x220000000DEADBEEF)).block.stage = .wwSel := by
  decide

theorem test_fetchAcknowledge :
    (after (State.reset.withFetchWord 8 0b001)).block.rspOk = true ∧
    (after (State.reset.withFetchWord 8 0b100)).history.getLast? = some (.responded false) := by
  decide

/-- The answer to the invocation is a free value, so only that the step is the row's. -/
theorem test_fetchOwnHeader :
    step (State.reset.withFetchWord 8 0xB1) =
      exec (.hdrDpW8 (some ⟨0#8, 0#8, 0#8, 0#8⟩)) (State.reset.withFetchWord 8 0xB1) := rfl

theorem test_fetchForeignHeader :
    step (State.reset.withFetchWord 8 0x87) = exec (.hdrApR0 none) State.reset := rfl

/-! ### Witnesses: concrete values that meet the hypotheses of each obligation, clause by clause -/

/-- A machine at a stage of `WRITE_WORD`, addr and data as in S7. -/
def ww (st : Stage) (attempt : BitVec 4) (replies : List Reply) : State :=
  at_ st 0b10#2 0x20000000#32 0xDEADBEEF#32 attempt replies

/-- An idle machine with a command on its port. -/
def presenting (op : BitVec 2) (replies : List Reply) : State :=
  { State.reset with commands := [⟨op, 0x20000000#32, 0xDEADBEEF#32⟩], replies := replies }

theorem witness_DecodingAnEncodedInstructionGivesItBack :
    (Instr.hdrDpW8 (some someBytes)).wellFormed = true ∧ (Instr.hdrApRC none).wellFormed = true := by decide

theorem witness_AcceptedBytesAreTheEncodingOfTheirInstruction :
    decode [0xBD#8] = .ok (.hdrDpRC none) ∧ decode [0x07#8] = .ok .ackProtocolError111 := by decide

theorem witness_PayloadIsLittleEndian : (7 : Nat) < 8 := by decide

theorem witness_AcknowledgePatternsDecode :
    (0b011#3 ≠ 0b001#3 ∧ 0b011#3 ≠ 0b010#3 ∧ 0b011#3 ≠ 0b100#3) ∧ (8#4).toNat < 9 ∧ ¬ (9#4).toNat < 9 := by decide

theorem witness_IdleBlockAcceptsEachCommand : State.reset.block.stage = .idle := by decide

theorem witness_BusyTakesNoCommandAndIdleWaits :
    (ww .wwTar 0#4 []).block.busy = true ∧
    (State.reset.block.stage = .idle ∧ State.reset.resetIn = .released ∧ State.reset.commands = [] ∧
      State.reset.outside = none) := by decide

/-- Its last clause: an idle step that goes on, with another agent's transaction. -/
theorem witness_IdleStepWithAnotherAgent :
    let s : State := { State.reset with outside := some ⟨0xA5#8, none⟩, replies := [ok] }
    (s.block.stage = .idle ∧ s.resetIn = .released ∧ s.commands = []) ∧ ∃ t, step s = .next t :=
  ⟨by decide, _, rfl⟩

theorem witness_CommandPortIsIgnoredWhileBusy :
    ((ww .wwTar 0#4 [ok]).block.stage ≠ .idle ∧ (ww .wwTar 0#4 [ok]).resetIn = .released) ∧
    (∃ t, step (ww .wwTar 0#4 [ok]) = .next t) ∧ (∃ f, step (ww .wwTar 0#4 [.never]) = .fault f) ∧
    (∃ r, step { ww .wwTar 0#4 [] with outside := some ⟨0xA5#8, none⟩ } = .refused r) :=
  ⟨by decide, ⟨_, rfl⟩, ⟨_, rfl⟩, ⟨_, rfl⟩⟩

theorem witness_OkAdvancesOrCompletes :
    (xact (ww .wwDrw 0#4 []).block = some ⟨0xBB#8, some (leBytes 0xDEADBEEF#32)⟩ ∧
      nextStage (ww .wwDrw 0#4 []).block.stage = some .wwFlush) ∧
    (xact (ww .wwFlush 0#4 []).block = some ⟨0xBD#8, none⟩ ∧ nextStage (ww .wwFlush 0#4 []).block.stage = none) := by
  decide

theorem witness_WaitReissuesAndTheTenthAborts :
    (xact (ww .wwCsw 8#4 []).block = some ⟨0xA3#8, some (leBytes 0x23000052#32)⟩ ∧
      (ww .wwCsw 8#4 []).block.attempt.toNat < 9) ∧
    (xact (ww .wwCsw 9#4 []).block = some ⟨0xA3#8, some (leBytes 0x23000052#32)⟩ ∧
      ¬ (ww .wwCsw 9#4 []).block.attempt.toNat < 9) := by decide

theorem witness_FaultAndProtocolErrorAbortAtOnce :
    xact (ww .wwSel 0#4 []).block = some ⟨0xB1#8, some ⟨0#8, 0#8, 0#8, 0#8⟩⟩ := by decide

theorem witness_AnswersAreNotUsedWhenIdle : State.reset.block.stage = .idle := by decide

theorem witness_StageTableOfWriteDp :
    ([(0x00#32, 0#2), (0x04#32, 1#2), (0xFFFFFFFB#32, 2#2), (0xFF#32, 3#2)] : List (Word × BitVec 2)).all (fun e =>
      decide ((at_ .dpWr 0b00#2 e.1 0#32 0#4 []).block.stage = .dpWr ∧
        (at_ .dpWr 0b00#2 e.1 0#32 0#4 []).block.addrQ.extractLsb' 2 2 = e.2)) = true := by decide

theorem witness_StageTableOfWriteAp :
    (at_ .apSel 0b01#2 0#32 0#32 0#4 []).block.stage = .apSel ∧ (at_ .apFlush 0b01#2 0#32 0#32 0#4 []).block.stage = .apFlush ∧
    ([(0x00#32, 0#2), (0x04#32, 1#2), (0x010000F8#32, 2#2), (0xFFFFFFFF#32, 3#2)] : List (Word × BitVec 2)).all (fun e =>
      decide ((at_ .apWr 0b01#2 e.1 0#32 0#4 []).block.stage = .apWr ∧
        (at_ .apWr 0b01#2 e.1 0#32 0#4 []).block.addrQ.extractLsb' 2 2 = e.2)) = true := by decide

/-- Each stage of the table; and for its failing answers a WAIT at attempt 9 and a FAULT at attempt 0. -/
theorem witness_StageTableOfWriteWord :
    ([.wwSel, .wwCsw, .wwCswFlush, .wwTar, .wwDrw, .wwFlush] : List Stage).all (fun st =>
      decide ((ww st 9#4 []).block.opQ = 0b10#2 ∧ (ww st 9#4 []).block.stage = st)) = true ∧
    (decodeAck 0b010#3 ≠ .ok ∧ (decodeAck 0b010#3 = .wait → ¬ (ww .wwTar 9#4 []).block.attempt.toNat < 9)) ∧
    (decodeAck 0b100#3 ≠ .ok ∧ (decodeAck 0b100#3 = .wait → ¬ (ww .wwTar 0#4 []).block.attempt.toNat < 9)) := by decide

theorem witness_BlockEmitsExactlyTheNineHeaders :
    xact (ww .wwTar 0#4 []).block = some ⟨0x8B#8, some (leBytes 0x20000000#32)⟩ ∧
    (ww .wwTar 0#4 []).block.stage.owner = some 0b10#2 := by decide

/-- Each stage and register select of the fourteen clauses, with each kind of reply. -/
theorem witness_EmittedHeadersPerformTheInvocation :
    ([(0x00#32, 0#2), (0x04#32, 1#2), (0x08#32, 2#2), (0x0C#32, 3#2)] : List (Word × BitVec 2)).all (fun e =>
      decide ((at_ .dpWr 0b00#2 e.1 0#32 0#4 [ok]).block.stage = .dpWr ∧
        (at_ .apWr 0b01#2 e.1 0#32 0#4 [ok]).block.stage = .apWr ∧
        (at_ .dpWr 0b00#2 e.1 0#32 0#4 [ok]).block.addrQ.extractLsb' 2 2 = e.2)) = true ∧
    ([.apSel, .apFlush, .wwSel, .wwCsw, .wwCswFlush, .wwTar, .wwDrw, .wwFlush] : List Stage).all (fun st =>
      decide ((ww st 0#4 [ok]).block.stage = st)) = true ∧
    (ww .wwSel 0#4 [ok]).replies = .returns 0b001#3 0#32 :: [] ∧ (ww .wwSel 0#4 []).replies = [] ∧
    (ww .wwSel 0#4 [.never]).replies = .never :: [] := by decide

theorem witness_OutsideTransactionLeavesTheIdleBlock :
    ({ State.reset with replies := [ok] } : State).block.stage = .idle ∧
    ({ State.reset with replies := [ok] } : State).replies = .returns 0b001#3 0#32 :: [] ∧
    State.reset.replies = [] ∧ ({ State.reset with replies := [.never] } : State).replies = .never :: [] := by decide

theorem witness_IntrusionAndMisfitPayloadAreRefused :
    ((ww .wwTar 0#4 []).block.stage ≠ .idle ∧
      ({ ww .wwTar 0#4 [] with outside := some ⟨0xB1#8, some someBytes⟩ } : State).resetIn = .released) ∧
    (xact (ww .wwTar 0#4 []).block = some ⟨0x8B#8, some (leBytes 0x20000000#32)⟩ ∧
      (some someBytes).isSome = decide (Dir.write = .write) ∧
      (⟨0x8B#8, some (leBytes 0x20000000#32)⟩ : Transaction) ≠ ⟨RegRef.header ⟨.ap, .write, 1#2⟩, some someBytes⟩) ∧
    (Instr.hdrDpW0 none).wellFormed = false ∧ (Instr.hdrApRC (some someBytes)).wellFormed = false := by decide

theorem witness_StepRunsTheDecodedInstruction :
    (∃ i, (presenting 0b10#2 []).commands = ⟨0b10#2, 0x20000000#32, 0xDEADBEEF#32⟩ :: [] ∧
      decode (CmdRecord.bytes ⟨0b10#2, 0x20000000#32, 0xDEADBEEF#32⟩) = .ok i) ∧
    (∃ i, (ww .wwTar 0#4 [ok]).replies = .returns 0b001#3 0#32 :: [] ∧ decode (ackBytes 0b001#3) = .ok i) ∧
    (∃ i tx, xact (ww .wwTar 0#4 []).block = some tx ∧ (ww .wwTar 0#4 []).replies = [] ∧ decode tx.bytes = .ok i) ∧
    (∃ i, ({ State.reset with outside := some ⟨0x87#8, none⟩ } : State).block.stage = .idle ∧
      8 ≤ (0x87#8).toNat ∧ decode (Transaction.bytes ⟨0x87#8, none⟩) = .ok i) :=
  ⟨⟨.writeWord 0x20000000#32 0xDEADBEEF#32, by decide⟩, ⟨.ackOk001, by decide⟩,
    ⟨.hdrApW4 (some ⟨0x00#8, 0x00#8, 0x00#8, 0x20#8⟩), ⟨0x8B#8, some ⟨0x00#8, 0x00#8, 0x00#8, 0x20#8⟩⟩, by decide⟩,
    ⟨.hdrApR0 none, by decide⟩⟩

theorem witness_StepIsAcceptOrInvoke :
    ((presenting 0b11#2 []).resetIn = .released ∧ (presenting 0b11#2 []).outside = none ∧
      (presenting 0b11#2 []).block.stage = .idle ∧
      (presenting 0b11#2 []).commands = ⟨0b11#2, 0x20000000#32, 0xDEADBEEF#32⟩ :: []) ∧
    ((ww .wwSel 0#4 [fault]).resetIn = .released ∧ (ww .wwSel 0#4 [fault]).outside = none ∧
      (ww .wwSel 0#4 [fault]).block.stage ≠ .idle ∧ (ww .wwSel 0#4 [fault]).replies = .returns 0b100#3 0#32 :: []) ∧
    ((ww .wwSel 0#4 []).block.stage ≠ .idle ∧ (ww .wwSel 0#4 []).replies = []) := by decide

theorem witness_StepMakesOneInvocationWhenBusy :
    (∃ t, step (ww .wwSel 0#4 [ok]) = .next t) ∧ (∃ t, step State.reset = .next t) := ⟨⟨_, rfl⟩, ⟨_, rfl⟩⟩

/-- A step of each kind: stay, ACCEPT, advance, complete, abort. -/
theorem witness_ControlMovesOnlyForward :
    (∃ t, step (ww .wwSel 8#4 [wait]) = .next t) ∧ (∃ t, step (presenting 0b10#2 []) = .next t) ∧
    (∃ t, step (ww .wwSel 0#4 [ok]) = .next t) ∧ (∃ t, step (ww .wwFlush 0#4 [ok]) = .next t) ∧
    (∃ t, step (ww .wwSel 9#4 [wait]) = .next t) := ⟨⟨_, rfl⟩, ⟨_, rfl⟩, ⟨_, rfl⟩, ⟨_, rfl⟩, ⟨_, rfl⟩⟩

theorem witness_PathDependsOnAcknowledgeCodesAlone :
    let s := ww .wwTar 3#4 []
    let t := at_ .wwTar 0b10#2 1#32 2#32 3#4 []
    s.block.stage = t.block.stage ∧ s.block.attempt = t.block.attempt ∧ s.block.rspValid = t.block.rspValid ∧
      s.block.rspOk = t.block.rspOk ∧ decodeAck 0b000#3 = decodeAck 0b111#3 ∧ s ≠ t := by decide

theorem witness_LatchesAreWrittenOnlyByAccept :
    (∃ t, (ww .wwTar 0#4 [ok]).resetIn = .released ∧ step (ww .wwTar 0#4 [ok]) = .next t) ∧
    (∃ t, (presenting 0b01#2 []).resetIn = .released ∧ step (presenting 0b01#2 []) = .next t) :=
  ⟨⟨_, rfl, rfl⟩, ⟨_, rfl, rfl⟩⟩

theorem witness_ReadDataInfluencesNothing :
    ((ww .wwFlush 0#4 []).block.stage ≠ .idle ∧ (ww .wwFlush 0#4 []).resetIn = .released) ∧
    ({ State.reset with outside := some ⟨0x95#8, none⟩ } : State).outside ≠ none := by decide

theorem witness_UnreturnedInvocationIsStuckUntilReset :
    ((ww .wwTar 0#4 [.never]).block.stage ≠ .idle ∧ (ww .wwTar 0#4 [.never]).outside = none ∧
      (ww .wwTar 0#4 [.never]).replies = .never :: [] ∧ (ww .wwTar 0#4 [.never]).resetIn = .released) ∧
    ({ ww .wwTar 0#4 [.never] with resetIn := .duringInvocation } : State).resetIn ≠ .released := by decide

theorem witness_ResetAbandonsTheCommand :
    ({ State.reset with resetIn := .betweenInvocations } : State).block.stage = .idle ∧
    xact (ww .wwDrw 3#4 [ok]).block = some ⟨0xBB#8, some (leBytes 0xDEADBEEF#32)⟩ ∧
    ({ ww .wwDrw 3#4 [ok] with resetIn := .betweenInvocations } : State).resetIn ≠ .released ∧
    ({ ww .wwDrw 3#4 [ok] with resetIn := .duringInvocation } : State).resetIn ≠ .released := by decide

/-- Two idle machines that differ in all five elements R37 leaves unspecified, and whose next step goes on. -/
theorem witness_UnspecifiedElementsReachNothing :
    let s := presenting 0b10#2 [ok]
    let t : State := { s with
      block := { s.block with opQ := 3#2, addrQ := 7#32, dataQ := 8#32, ackQ := .fault, rspOk := true } }
    s.agreesWith t ∧ s ≠ t ∧ ∃ s', step s = .next s' :=
  ⟨⟨rfl, rfl, rfl, fun h => absurd rfl h, nofun, rfl, rfl, rfl, rfl, rfl⟩, by decide, _, rfl⟩

theorem witness_LegalBlockIsKeptByEveryStep :
    (ww .wwTar 9#4 [wait]).block.legal = true ∧ ∃ t, step (ww .wwTar 9#4 [wait]) = .next t := ⟨by decide, _, rfl⟩

/-- A machine one WAIT into a command, its history to match. -/
def midway : State :=
  { ww .wwSel 1#4 [wait] with
    history := [.accepted ⟨0b10#2, 0x20000000#32, 0xDEADBEEF#32⟩,
      .invoked ⟨0xB1#8, some ⟨0#8, 0#8, 0#8, 0#8⟩, 0b010#3⟩] }

theorem witness_AttemptCountsTheTrailingWaits :
    midway.attemptCounts = true ∧ ∃ t, step midway = .next t := ⟨by decide, _, rfl⟩

theorem witness_HistoryHoldsOnlyEmittableInvocations :
    midway.history.all Event.emittable = true ∧ ∃ t, step midway = .next t := ⟨by decide, _, rfl⟩

theorem witness_EveryCommandEndsExactlyOnce :
    midway.accounted = true ∧ ∃ t, step midway = .next t := ⟨by decide, _, rfl⟩

/-- Nine WAITs then OK: `k = 9`, the longest `XFER`; and ten answers to be had. -/
theorem witness_RetryingTransferMakesOneToTenInvocations :
    (∃ r, xfer ⟨0xBD#8, none⟩ (List.replicate 9 config.ackWait ++ [0b001#3]) = some r) ∧
    10 ≤ (List.replicate 9 config.ackWait ++ [0b001#3]).length ∧ (9 : Nat) < 10 ∧ decodeAck 0b001#3 ≠ .wait :=
  ⟨⟨_, rfl⟩, by decide⟩

theorem witness_TenWaitsExhaustTheBudget : (10 : Nat) ≤ 10 := by decide

theorem witness_EveryReissueIsIdentical :
    (∃ r, xfer ⟨0xBD#8, none⟩ [0b010#3, 0b001#3] = some r ∧ r.invocations.length = 2) ∧
    (invoke 0b010#3 (ww .wwTar 8#4 [])).block.stage = (ww .wwTar 8#4 []).block.stage :=
  ⟨⟨_, rfl, rfl⟩, by decide⟩

/-- Each command on answers that end it: a success, and for the last three clauses runs of nothing but OK. -/
theorem witness_InvocationCountsOfEachCommand :
    (∃ r, commandCall ⟨0b00#2, 0x08#32, 0x12345678#32⟩ (List.replicate 1 config.ackOk) = some r) ∧
    (∃ r, commandCall ⟨0b01#2, 0x010000F8#32, 0xA5A5A5A5#32⟩ (List.replicate 3 config.ackOk) = some r) ∧
    (∃ r, commandCall ⟨0b10#2, 0x20000000#32, 0xDEADBEEF#32⟩ (List.replicate 6 config.ackOk) = some r) ∧
    (∃ r, commandCall ⟨0b11#2, 0#32, 0#32⟩ [] = some r) := ⟨⟨_, rfl⟩, ⟨_, rfl⟩, ⟨_, rfl⟩, ⟨_, rfl⟩⟩

/-- V48: a success with retries in every transaction; one with every answer OK; and the largest numbers of WAITs. -/
theorem witness_SuccessfulApWriteIsThreeTransactions :
    ∃ r, writeApCall 0x0000000C#32 0x11223344#32
        [0b010#3, 0b001#3, 0b010#3, 0b010#3, 0b001#3, 0b010#3, 0b010#3, 0b010#3, 0b001#3] = some r ∧
      r.value = true ∧ r.invocations.length = 9 ∧
      (∃ q, writeApCall 0x0000000C#32 0x11223344#32 (List.replicate 3 0b001#3) = some q ∧ q.value = true ∧
        ∀ x ∈ q.invocations, x.ack = config.ackOk) ∧
      (9 : Nat) ≤ 9 ∧ (0 : Nat) ≤ 9 := ⟨_, rfl, rfl, rfl, ⟨_, rfl, rfl, by decide⟩, by decide, by decide⟩

theorem witness_SuccessfulWordWriteIsSixTransactions :
    ∃ r, writeWordCall 0x20000000#32 0xDEADBEEF#32 (List.replicate 6 0b001#3) = some r ∧ r.value = true :=
  ⟨_, rfl, rfl⟩

/-- V40: the CSW flush answered FAULT. -/
theorem witness_FailedCswConfigurationIssuesNoTarOrDrw :
    ∃ r, writeApCall 0x00000000#32 0x23000052#32 [0b001#3, 0b001#3, 0b100#3] = some r ∧ r.value = false :=
  ⟨_, rfl, rfl⟩

theorem witness_IgnoredBitsAreExactlyThese :
    (0x0C#32).extractLsb' 2 2 = (0xFFFFFFFF#32).extractLsb' 2 2 ∧
    0xFF0000FC#32 &&& 0xFF0000FC#32 = 0xFFFFFFFF#32 &&& 0xFF0000FC#32 ∧
    (∀ answers, commandCall ⟨0b00#2, 0x0C#32, 1#32⟩ answers = commandCall ⟨0b00#2, 0xFF#32, 1#32⟩ answers) ∧
    (∀ answers, commandCall ⟨0b01#2, 0x0C#32, 1#32⟩ answers = commandCall ⟨0b01#2, 0x0D#32, 1#32⟩ answers) ∧
    (∀ answers, commandCall ⟨0b10#2, 0x0C#32, 1#32⟩ answers = commandCall ⟨0b10#2, 0x0C#32, 1#32⟩ answers) :=
  ⟨by decide, by decide, fun _ => rfl, fun _ => rfl, fun _ => rfl⟩

theorem witness_FirstFailureEndsTheCommand :
    ∃ r, (⟨0b01#2, 4#32, 0#32⟩ : CmdRecord).op ≠ 0b11#2 ∧
      commandCall ⟨0b01#2, 4#32, 0#32⟩ [0b001#3, 0b100#3] = some r ∧ r.invocations.length = 2 :=
  ⟨_, by decide, rfl, rfl⟩

theorem witness_StepsPerformTheCallOfEachCommand :
    let answers : List (BitVec 3 × Word) := [(0b001#3, 5#32), (0b100#3, 6#32)]
    let s := presenting 0b01#2 (returning answers)
    s.block.stage = .idle ∧ s.resetIn = .released ∧ s.outside = none ∧
      s.commands = ⟨0b01#2, 0x20000000#32, 0xDEADBEEF#32⟩ :: [] ∧ s.replies = returning answers ∧
      ∃ r, commandCall ⟨0b01#2, 0x20000000#32, 0xDEADBEEF#32⟩ (answers.map Prod.fst) = some r :=
  ⟨by decide, by decide, by decide, by decide, by decide, _, rfl⟩

theorem witness_EveryCommandEndsWithinSixtyInvocations :
    let s := presenting 0b10#2 [ok, wait]
    s.block.stage = .idle ∧ s.resetIn = .released ∧ s.outside = none ∧
      s.commands = ⟨0b10#2, 0x20000000#32, 0xDEADBEEF#32⟩ :: [] ∧ s.primitiveReturns = true := by decide

/-- A target with one word of memory that remembers SELECT, TAR and the last store. -/
structure OneWordTarget where
  select : Word
  tar : Word
  addr : Word
  data : Word
  deriving DecidableEq, Repr

def OneWordTarget.mem (x : OneWordTarget) (a : Word) : Word :=
  if a = x.addr then x.data else 0#32

def OneWordTarget.act (x : OneWordTarget) (i : Invocation) : OneWordTarget :=
  if i.ack = config.ackOk then
    match i.payload with
    | none => x
    | some p =>
      if i.header = 0xB1#8 then { x with select := ofLeBytes p }
      else if i.header = 0x8B#8 then { x with tar := ofLeBytes p }
      else if i.header = 0xBB#8 then { x with addr := x.tar, data := ofLeBytes p }
      else x
  else x

/-- It obeys the hypothesis, so the hypothesis is not empty. -/
theorem witness_WordReachesAnObedientTarget :
    WordTarget OneWordTarget.act OneWordTarget.select OneWordTarget.tar OneWordTarget.mem where
  notTaken x i h := by simp [OneWordTarget.act, h]
  selectWritten x v := by simp [OneWordTarget.act, ofLeBytes_leBytes]
  cswWritten x v := by simp [OneWordTarget.act]
  tarWritten x v h := by simp [OneWordTarget.act, ofLeBytes_leBytes, h]
  drwWritten x v h := by simp [OneWordTarget.act, OneWordTarget.mem, ofLeBytes_leBytes, h]
  rdbuffRead x := by simp [OneWordTarget.act]

end Sys2Proof.Tests
end

section
/-! The encodings (spec/30_encoding.md): the bits of a header, of a SELECT value and of a payload, the effect of ACCEPT, and
which bits of a command a call depends on. -/

namespace Sys2Proof.Machine

/-! ### The header -/

/-- R87's table for the configured layout. -/
theorem hdr_bits (k : Kind) (d : Dir) (sel : BitVec 2) :
    (hdr k d sel).getLsbD 0 = true ∧ (hdr k d sel).getLsbD 1 = k.bit ∧ (hdr k d sel).getLsbD 2 = d.bit ∧
      (hdr k d sel).getLsbD 3 = sel.getLsbD 0 ∧ (hdr k d sel).getLsbD 4 = sel.getLsbD 1 ∧
      (hdr k d sel).getLsbD 5 = headerParity ⟨k, d, sel⟩ ∧
      (hdr k d sel).getLsbD 6 = false ∧ (hdr k d sel).getLsbD 7 = true := by
  simp only [hdr, RegRef.header, headerIn, config, headerLayout, BitVec.getLsbD_or, headerBit_at, headerBit_off,
    Nat.reduceLT, Nat.reduceEqDiff, not_false_eq_true, Bool.false_or, Bool.or_false, and_self]

/-- A header determines its Register Reference (R87: every field has a place of its own). -/
theorem header_injective {r r' : RegRef} (h : r.header = r'.header) : r = r' := by
  have hd := decodeHeader_header r
  rw [h, decodeHeader_header] at hd
  exact (Except.ok.inj hd).symm

theorem hdr_sel_injective {k : Kind} {d : Dir} {sel sel' : BitVec 2} (h : hdr k d sel = hdr k d sel') : sel = sel' :=
  congrArg RegRef.sel (header_injective h)

theorem kind_bit_eq_decide (k : Kind) : k.bit = decide (k = .ap) := by cases k <;> rfl

theorem dir_bit_eq_decide (d : Dir) : d.bit = decide (d = .read) := by cases d <;> rfl

/-- Four bits and their exclusive-OR hold an even number of ones (R88). -/
theorem countP_with_parity_even (f : Nat → Bool) (h : f 5 = (f 1 ^^ f 2 ^^ f 3 ^^ f 4)) :
    [1, 2, 3, 4, 5].countP f % 2 = 0 := by
  simp only [List.countP_cons, List.countP_nil, h]
  generalize f 1 = a; generalize f 2 = b; generalize f 3 = c; generalize f 4 = d
  revert a b c d
  decide

/-- Settles O4: R87's table, then R88 from the parity's definition. -/
theorem headerBitsFollowTheRequestPacket : Obligations.HeaderBitsFollowTheRequestPacket := by
  intro k d sel
  obtain ⟨h0, h1, h2, h3, h4, h5, h6, h7⟩ := hdr_bits k d sel
  have hp : (hdr k d sel).getLsbD 5 = ((hdr k d sel).getLsbD 1 ^^ (hdr k d sel).getLsbD 2 ^^
      (hdr k d sel).getLsbD 3 ^^ (hdr k d sel).getLsbD 4) := by
    rw [h1, h2, h3, h4, h5]; rfl
  exact ⟨h0, h1.trans (kind_bit_eq_decide k), h2.trans (dir_bit_eq_decide d), h3, h4, hp, h6, h7,
    countP_with_parity_even _ hp⟩

/-! ### The SELECT value -/

/-- The bits of a word, given below bit 32 and absent above. -/
theorem getLsbD_eq_of_fin {x : Word} {p : Nat → Bool} (below : ∀ i : Fin 32, x.getLsbD i = p i)
    (above : ∀ n, 32 ≤ n → p n = false) (n : Nat) : x.getLsbD n = p n := by
  by_cases hn : n < 32
  · exact below ⟨n, hn⟩
  · rw [BitVec.getLsbD_of_ge _ _ (by omega), above n (by omega)]

theorem apselMask_getLsbD (n : Nat) : config.apselMask.getLsbD n = decide (24 ≤ n ∧ n ≤ 31) :=
  getLsbD_eq_of_fin (p := fun n => decide (24 ≤ n ∧ n ≤ 31)) (by decide) (fun _ _ => decide_eq_false (by omega)) n

theorem apBankselMask_getLsbD (n : Nat) : config.apBankselMask.getLsbD n = decide (4 ≤ n ∧ n ≤ 7) :=
  getLsbD_eq_of_fin (p := fun n => decide (4 ≤ n ∧ n ≤ 7)) (by decide) (fun _ _ => decide_eq_false (by omega)) n

theorem regselMask_getLsbD (n : Nat) : config.regselMask.getLsbD n = decide (n = 2 ∨ n = 3) :=
  getLsbD_eq_of_fin (p := fun n => decide (n = 2 ∨ n = 3)) (by decide) (fun _ _ => decide_eq_false (by omega)) n

/-- R85, bit by bit. -/
theorem selval_getLsbD (a : Word) (n : Nat) :
    (selval a).getLsbD n = (decide ((24 ≤ n ∧ n ≤ 31) ∨ (4 ≤ n ∧ n ≤ 7)) && a.getLsbD n) := by
  rw [selval, BitVec.getLsbD_or, BitVec.getLsbD_and, BitVec.getLsbD_and, apselMask_getLsbD, apBankselMask_getLsbD,
    ← Bool.and_or_distrib_left, ← Bool.decide_or, Bool.and_comm]

/-- Settles O5. -/
theorem selectValueKeepsApselAndBankOnly : Obligations.SelectValueKeepsApselAndBankOnly :=
  ⟨selval_getLsbD, by decide, by decide, by decide⟩

/-! ### The payload -/

/-- Settles O6: a byte is a field of the value, and the two views are inverse. -/
theorem payloadIsLittleEndian : Obligations.PayloadIsLittleEndian := by
  refine ⟨fun v n hn => ?_, ofLeBytes_leBytes, leBytes_ofLeBytes, by decide, by decide⟩
  simp [leBytes, hn]

/-! ### ACCEPT -/

/-- Settles O9: each command record is its row's `commandInstr`, whose effect on an idle block is known. -/
theorem idleBlockAcceptsEachCommand : Obligations.IdleBlockAcceptsEachCommand := by
  intro s a d hidle
  have accepts := fun op => exec_commandInstr_idle hidle op a d
  refine ⟨accepts 0b00#2, accepts 0b01#2, accepts 0b10#2, (accepts 0b11#2).trans ?_⟩
  simp [respond, accept]

/-! ### What a call reads of its command -/

@[simp] theorem commandCall_writeDp (a v : Word) : commandCall ⟨0b00#2, a, v⟩ = xferOk (dpWrite (dpAddrOf a) v) := by
  simp [commandCall, writeDpCall]

@[simp] theorem commandCall_writeAp (a v : Word) : commandCall ⟨0b01#2, a, v⟩ = writeApCall a v := by
  simp [commandCall]

@[simp] theorem commandCall_writeWord (a v : Word) : commandCall ⟨0b10#2, a, v⟩ = writeWordCall a v := by
  simp [commandCall]

/-- The transaction of `WRITE_DP` reads `addr[3:2]` and `data` (R84, R130). -/
theorem dpWrite_dpAddrOf (a v : Word) :
    dpWrite (dpAddrOf a) v = ⟨hdr .dp .write (a.extractLsb' 2 2), some (leBytes v)⟩ := by
  rw [dpWrite, hdrAt, regSel_dpAddrOf]

/-- The register select, put back at its own place (R86). -/
theorem regSel_at_place (a : Word) : (regSel a).setWidth 32 <<< 2 = a &&& config.regselMask := by
  apply BitVec.eq_of_getLsbD_eq
  intro i hi
  rw [regSel_eq, BitVec.getLsbD_and, regselMask_getLsbD]
  by_cases h : i = 2 ∨ i = 3
  · obtain rfl | rfl := h <;> simp
  · have hout : i < 2 ∨ ¬ i - 2 < 2 := by omega
    obtain hlow | hhigh := hout
    · simp [h, hlow]
    · simp [h, hhigh]

/-- The bits of an AP address that R83 names are those of the SELECT value and the register select at its own place. -/
theorem apAddr_fields (a : Word) : a &&& 0xFF0000FC#32 = selval a ||| (regSel a).setWidth 32 <<< 2 := by
  rw [regSel_at_place, selval, ← BitVec.and_or_distrib_left, ← BitVec.and_or_distrib_left]
  rfl

theorem selval_and_apFields (a : Word) : selval (a &&& 0xFF0000FC#32) = selval a := by
  rw [selval, BitVec.and_assoc, BitVec.and_assoc]; rfl

theorem regSel_and_apFields (a : Word) : regSel (a &&& 0xFF0000FC#32) = regSel a := by
  rw [regSel, BitVec.and_assoc]; rfl

/-- Two AP addresses that agree in the bits R83 names are the same address to `write_ap`, and conversely. -/
theorem apFields_eq_iff (a a' : Word) :
    a &&& 0xFF0000FC#32 = a' &&& 0xFF0000FC#32 ↔ selval a = selval a' ∧ regSel a = regSel a' := by
  constructor
  · intro h
    constructor
    · rw [← selval_and_apFields a, h, selval_and_apFields]
    · rw [← regSel_and_apFields a, h, regSel_and_apFields]
  · rintro ⟨hs, hr⟩
    rw [apAddr_fields, apAddr_fields, hs, hr]

/-- An invocation of `tx` that the primitive answers OK. -/
def okInvocation (tx : Transaction) : Invocation :=
  ⟨tx.header, tx.payload, config.ackOk⟩

theorem okInvocation_injective {tx tx' : Transaction} (h : okInvocation tx = okInvocation tx') : tx = tx' := by
  cases tx; cases tx'; simpa [okInvocation] using h

/-- An operation makes the transactions `txs`, in this order, if every one is answered OK. -/
def Performs (op : List (BitVec 3) → Option (CallResult Bool)) (txs : List Transaction) : Prop :=
  ∀ rest, op (List.replicate txs.length config.ackOk ++ rest) = some ⟨true, txs.map okInvocation, rest⟩

/-- A transaction answered OK at once takes one invocation (R111). -/
theorem xferOk_performs (tx : Transaction) : Performs (xferOk tx) [tx] :=
  fun _ => rfl

/-- After a success the second operation goes on with the answers left (R99). -/
theorem Performs.andThen {first second : List (BitVec 3) → Option (CallResult Bool)} {xs ys : List Transaction}
    (hf : Performs first xs) (hs : Performs second ys) : Performs (andThen first second) (xs ++ ys) := by
  intro rest
  rw [List.length_append, List.replicate_add, List.append_assoc, Machine.andThen, hf]
  simp [hs rest]

theorem writeApCall_performs (a v : Word) : Performs (writeApCall a v) [selectWrite a, apWrite a v, rdbuffRead] :=
  (xferOk_performs _).andThen ((xferOk_performs _).andThen (xferOk_performs _))

theorem writeDataCall_performs (a d : Word) :
    Performs (writeDataCall a d) [apWrite config.tarSel a, apWrite config.drwSel d, rdbuffRead] :=
  (xferOk_performs _).andThen ((xferOk_performs _).andThen (xferOk_performs _))

theorem writeWordCall_performs (a v : Word) :
    Performs (writeWordCall a v) [selectWrite config.apCsw, apWrite config.apCsw cswval, rdbuffRead,
      apWrite config.tarSel a, apWrite config.drwSel v, rdbuffRead] :=
  (writeApCall_performs _ _).andThen (writeDataCall_performs _ _)

/-- Operations equal for every list of answers make the same transactions: the all-OK answers show them. -/
theorem Performs.transactions_eq {op op' : List (BitVec 3) → Option (CallResult Bool)} {xs ys : List Transaction}
    (hx : Performs op xs) (hy : Performs op' ys) (hlen : xs.length = ys.length)
    (h : ∀ answers, op answers = op' answers) : xs = ys := by
  have hrun := hx []
  rw [h, hlen, hy] at hrun
  have hmap : ys.map okInvocation = xs.map okInvocation := congrArg CallResult.invocations (Option.some.inj hrun)
  exact (List.map_injective_iff.2 (fun _ _ => okInvocation_injective) hmap).symm

/-- Equal AP writes have equal register selects and equal values. -/
theorem apWrite_injective {a a' v v' : Word} (h : apWrite a v = apWrite a' v') : regSel a = regSel a' ∧ v = v' := by
  obtain ⟨hhdr, hpay⟩ := Transaction.mk.inj h
  exact ⟨hdr_sel_injective hhdr, leBytes_injective (Option.some.inj hpay)⟩

theorem dpWrite_dpAddrOf_injective {a a' v v' : Word} (h : dpWrite (dpAddrOf a) v = dpWrite (dpAddrOf a') v') :
    a.extractLsb' 2 2 = a'.extractLsb' 2 2 ∧ v = v' := by
  rw [dpWrite_dpAddrOf, dpWrite_dpAddrOf] at h
  obtain ⟨hhdr, hpay⟩ := Transaction.mk.inj h
  exact ⟨hdr_sel_injective hhdr, leBytes_injective (Option.some.inj hpay)⟩

theorem selectWrite_injective {a a' : Word} (h : selectWrite a = selectWrite a') : selval a = selval a' :=
  leBytes_injective (Option.some.inj (Transaction.mk.inj h).2)

/-- Settles O45: the ignored bits reach no transaction, and every other bit is a bit of a transaction that the all-OK run
makes. -/
theorem ignoredBitsAreExactlyThese : Obligations.IgnoredBitsAreExactlyThese := by
  simp only [Obligations.IgnoredBitsAreExactlyThese, commandCall_writeDp, commandCall_writeAp, commandCall_writeWord]
  refine ⟨fun a a' v answers ha => ?_, fun a a' v answers ha => ?_, fun a a' v v' h => ?_, fun a a' v v' h => ?_,
    fun a a' v v' h => ?_⟩
  · rw [dpWrite_dpAddrOf, dpWrite_dpAddrOf, ha]
  · obtain ⟨hselval, hregSel⟩ := (apFields_eq_iff a a').1 ha
    rw [writeApCall, writeApCall, hselval, apWrite, apWrite, hdrAt, hdrAt, hregSel]
  · have htxs := (xferOk_performs (dpWrite (dpAddrOf a) v)).transactions_eq
      (xferOk_performs (dpWrite (dpAddrOf a') v')) rfl h
    exact dpWrite_dpAddrOf_injective (List.cons.inj htxs).1
  · have htxs := (writeApCall_performs a v).transactions_eq (writeApCall_performs a' v') rfl h
    obtain ⟨hselect, hwrites⟩ := List.cons.inj htxs
    obtain ⟨hregSel, hdata⟩ := apWrite_injective (List.cons.inj hwrites).1
    exact ⟨(apFields_eq_iff a a').2 ⟨selectWrite_injective hselect, hregSel⟩, hdata⟩
  · have htxs := (writeWordCall_performs a v).transactions_eq (writeWordCall_performs a' v') rfl h
    simp only [List.cons.injEq, true_and, and_true] at htxs
    obtain ⟨htar, hdrw⟩ := htxs
    exact ⟨(apWrite_injective htar).2, (apWrite_injective hdrw).2⟩

end Sys2Proof.Machine
end

section
/-! The Retrying Transfer (spec/40_retrying_transfer.md): the loop of R111 an answer at a time, on a run of WAITs, and the
identity of the re-issues. -/

namespace Sys2Proof.Machine

/-! ### The loop of R111, an answer at a time -/

/-- The same result after the invocations `before`. -/
def CallResult.after {ρ : Type} (before : List Invocation) (r : CallResult ρ) : CallResult ρ :=
  { r with invocations := before ++ r.invocations }

section
variable {ρ : Type} (before : List Invocation) (r : CallResult ρ)
@[simp] theorem CallResult.after_value : (r.after before).value = r.value := rfl
@[simp] theorem CallResult.after_invocations : (r.after before).invocations = before ++ r.invocations := rfl
@[simp] theorem CallResult.after_rest : (r.after before).rest = r.rest := rfl
end

@[simp] theorem xferLoop_zero (tx : Transaction) (bs : List (BitVec 3)) : xferLoop tx 0 bs = some ⟨.wait, [], bs⟩ := rfl

@[simp] theorem xferLoop_nil (tx : Transaction) (n : Nat) : xferLoop tx (n + 1) [] = none := rfl

/-- A WAIT spends one invocation, and the loop goes on. -/
theorem xferLoop_cons_of_wait {b : BitVec 3} (h : decodeAck b = .wait) (tx : Transaction) (n : Nat)
    (bs : List (BitVec 3)) :
    xferLoop tx (n + 1) (b :: bs) = (xferLoop tx n bs).map (.after [⟨tx.header, tx.payload, b⟩]) := by
  rw [xferLoop, if_pos h]
  cases xferLoop tx n bs <;> rfl

/-- Any other code returns at once (R112). -/
theorem xferLoop_cons_of_ne_wait {b : BitVec 3} (h : decodeAck b ≠ .wait) (tx : Transaction) (n : Nat)
    (bs : List (BitVec 3)) :
    xferLoop tx (n + 1) (b :: bs) = some ⟨decodeAck b, [⟨tx.header, tx.payload, b⟩], bs⟩ := by
  rw [xferLoop, if_neg h]

/-! ### A run of WAITs -/

/-- An invocation of `tx` that the primitive answers WAIT. -/
def waitInvocation (tx : Transaction) : Invocation :=
  ⟨tx.header, tx.payload, config.ackWait⟩

/-- `k` WAITs spend `k` invocations of the budget, whatever is answered next. -/
theorem xferLoop_replicate_wait (tx : Transaction) (k n : Nat) (bs : List (BitVec 3)) :
    xferLoop tx (k + n) (List.replicate k config.ackWait ++ bs) =
      (xferLoop tx n bs).map (.after (List.replicate k (waitInvocation tx))) := by
  induction k with
  | zero =>
    rw [Nat.zero_add, List.replicate_zero, List.nil_append]
    cases xferLoop tx n bs <;> rfl
  | succ k ih =>
    have hwait : decodeAck config.ackWait = .wait := (decodeAck_eq_wait_iff _).2 rfl
    rw [Nat.succ_add, List.replicate_succ, List.cons_append, xferLoop_cons_of_wait hwait, ih, Option.map_map]
    rfl

/-- R114: ten WAITs exhaust the budget, whatever answers are left. -/
theorem xfer_ten_waits (tx : Transaction) (bs : List (BitVec 3)) :
    xfer tx (List.replicate 10 config.ackWait ++ bs) = some ⟨.wait, List.replicate 10 (waitInvocation tx), bs⟩ :=
  xferLoop_replicate_wait tx 10 0 bs

/-- A transaction succeeds exactly when its transfer returns OK (R190). -/
theorem xferOk_of_xfer {tx : Transaction} {answers : List (BitVec 3)} {r : CallResult AckCode}
    (h : xfer tx answers = some r) : xferOk tx answers = some ⟨decide (r.value = .ok), r.invocations, r.rest⟩ := by
  rw [xferOk, h]

/-- Settles O39: of the `n` WAITs the first ten are the transfer's, and its WAIT is no OK. -/
theorem tenWaitsExhaustTheBudget : Obligations.TenWaitsExhaustTheBudget := by
  intro n rest hn
  obtain ⟨m, rfl⟩ := Nat.exists_eq_add_of_le hn
  rw [List.replicate_add, List.append_assoc, Nat.add_sub_cancel_left]
  exact ⟨fun tx => ⟨_, xfer_ten_waits tx _, rfl, List.length_replicate, rfl⟩,
    fun a v => ⟨_, xferOk_of_xfer (xfer_ten_waits (dpWrite a v) _), rfl, List.length_replicate⟩⟩

/-! ### Identical re-issues -/

/-- R115 for the loop, whatever budget is left. -/
theorem xferLoop_invocations_identical (tx : Transaction) :
    ∀ {n : Nat} {answers : List (BitVec 3)} {r : CallResult AckCode}, xferLoop tx n answers = some r →
      ∀ inv ∈ r.invocations, inv.header = tx.header ∧ inv.payload = tx.payload
  | 0, answers, r, h => by
    obtain rfl := Option.some.inj h
    simp
  | n + 1, [], r, h => by simp at h
  | n + 1, b :: bs, r, h => by
    by_cases hb : decodeAck b = .wait
    · rw [xferLoop_cons_of_wait hb] at h
      obtain ⟨q, hq, rfl⟩ := Option.map_eq_some_iff.1 h
      simpa using xferLoop_invocations_identical tx hq
    · rw [xferLoop_cons_of_ne_wait hb] at h
      obtain rfl := Option.some.inj h
      simp

/-- A stage's transaction is built from the operand latches and from nothing else of the block (R23). -/
theorem xact_congr {b b' : Block} (hstage : b.stage = b'.stage) (haddr : b.addrQ = b'.addrQ)
    (hdata : b.dataQ = b'.dataQ) : xact b = xact b' := by
  rw [xact, hstage, haddr, hdata, xact]

/-- Settles O40: the loop hands every invocation its own `tx`, and INVOKE leaves the latches that `xact` reads alone. -/
theorem everyReissueIsIdentical : Obligations.EveryReissueIsIdentical := by
  refine ⟨fun tx _ _ h => xferLoop_invocations_identical tx h, fun s b hstage => ?_⟩
  obtain ⟨hop, haddr, hdata⟩ := invoke_latches b s
  exact ⟨xact_congr hstage haddr hdata, hop, haddr, hdata⟩

end Sys2Proof.Machine
end

section
/-! Transactions retried on their own (spec/40_retrying_transfer.md, spec/42_ap_write.md): the traces on which a sequence
of transactions succeeds, and those of `write_ap`. -/

namespace Sys2Proof.Machine

/-! ### One transaction -/

/-- The invocations of `tx` answered WAIT `k` times and then OK. -/
def retriedTransfer (tx : Transaction) (k : Nat) : List Invocation :=
  List.replicate k (waitInvocation tx) ++ [okInvocation tx]

@[simp] theorem retriedTransfer_length (tx : Transaction) (k : Nat) : (retriedTransfer tx k).length = k + 1 := by
  simp [retriedTransfer]

theorem retriedTransfer_zero (tx : Transaction) : retriedTransfer tx 0 = [okInvocation tx] := rfl

theorem retriedTransfer_succ (tx : Transaction) (k : Nat) :
    retriedTransfer tx (k + 1) = waitInvocation tx :: retriedTransfer tx k := rfl

theorem retriedTransfer_acks (tx : Transaction) (k : Nat) :
    (retriedTransfer tx k).map Invocation.ack = List.replicate k config.ackWait ++ [config.ackOk] := by
  simp [retriedTransfer, waitInvocation, okInvocation]

/-- With no WAIT among the answers there was no retry. -/
theorem eq_zero_of_retriedTransfer_all_ok {tx : Transaction} {k : Nat}
    (h : ∀ x ∈ retriedTransfer tx k, x.ack = config.ackOk) : k = 0 := by
  cases k with
  | zero => rfl
  | succ k =>
    have hwait : config.ackWait = config.ackOk := h (waitInvocation tx) List.mem_cons_self
    exact absurd hwait (by decide)

/-- Fewer WAITs than the budget, then OK: the transfer returns OK. -/
theorem xferLoop_retriedTransfer (tx : Transaction) {k n : Nat} (hk : k < n) (rest : List (BitVec 3)) :
    xferLoop tx n ((retriedTransfer tx k).map Invocation.ack ++ rest) = some ⟨.ok, retriedTransfer tx k, rest⟩ := by
  obtain ⟨m, rfl⟩ := Nat.exists_eq_add_of_lt hk
  rw [retriedTransfer_acks, List.append_assoc, Nat.add_assoc, xferLoop_replicate_wait]
  rfl

/-- And only then: a transfer that returns OK was answered WAIT fewer times than the budget, then OK, and read no other
answer. -/
theorem retriedTransfer_of_xferLoop_ok (tx : Transaction) :
    ∀ {n : Nat} {answers rest : List (BitVec 3)} {invs : List Invocation},
      xferLoop tx n answers = some ⟨.ok, invs, rest⟩ →
        ∃ k < n, invs = retriedTransfer tx k ∧ answers = invs.map Invocation.ack ++ rest
  | 0, answers, rest, invs, h => by simp at h
  | n + 1, [], rest, invs, h => by simp at h
  | n + 1, b :: bs, rest, invs, h => by
    by_cases hb : decodeAck b = .wait
    · rw [xferLoop_cons_of_wait hb] at h
      obtain ⟨⟨code, later, rest'⟩, hq, hafter⟩ := Option.map_eq_some_iff.1 h
      obtain ⟨rfl, rfl, rfl⟩ := CallResult.mk.inj hafter
      obtain ⟨k, hk, rfl, rfl⟩ := retriedTransfer_of_xferLoop_ok tx hq
      obtain rfl := (decodeAck_eq_wait_iff b).1 hb
      exact ⟨k + 1, Nat.succ_lt_succ hk, rfl, rfl⟩
    · rw [xferLoop_cons_of_ne_wait hb] at h
      obtain ⟨hok, rfl, rfl⟩ := CallResult.mk.inj (Option.some.inj h)
      obtain rfl := (decodeAck_eq_ok_iff b).1 hok
      exact ⟨0, Nat.succ_pos n, rfl, rfl⟩

/-- A transaction succeeds exactly on 0 to 9 WAITs and then OK (R111, R130). -/
theorem xferOk_eq_true_iff (tx : Transaction) (answers rest : List (BitVec 3)) (invs : List Invocation) :
    xferOk tx answers = some ⟨true, invs, rest⟩ ↔
      ∃ k ≤ 9, invs = retriedTransfer tx k ∧ answers = invs.map Invocation.ack ++ rest := by
  constructor
  · intro h
    have hxfer : xfer tx answers = some ⟨.ok, invs, rest⟩ := by
      unfold xferOk at h
      split at h
      · cases h
      · next r hr =>
        obtain ⟨hvalue, rfl, rfl⟩ := CallResult.mk.inj (Option.some.inj h)
        rw [hr, ← of_decide_eq_true hvalue]
    obtain ⟨k, hk, hinvs, hanswers⟩ := retriedTransfer_of_xferLoop_ok tx hxfer
    exact ⟨k, Nat.le_of_lt_succ hk, hinvs, hanswers⟩
  · rintro ⟨k, hk, rfl, rfl⟩
    exact xferOk_of_xfer (xferLoop_retriedTransfer tx (Nat.lt_succ_of_le hk) rest)

/-! ### Transactions in sequence -/

/-- A composition succeeds exactly if both operations do, the second on the answers the first left (R99). -/
theorem andThen_eq_true_iff (first second : List (BitVec 3) → Option (CallResult Bool))
    (answers rest : List (BitVec 3)) (invs : List Invocation) :
    andThen first second answers = some ⟨true, invs, rest⟩ ↔
      ∃ xs left ys, first answers = some ⟨true, xs, left⟩ ∧ second left = some ⟨true, ys, rest⟩ ∧ invs = xs ++ ys := by
  constructor
  · intro h
    unfold andThen at h
    split at h
    · cases h
    · next r hr =>
      split at h
      · next hvalue =>
        split at h
        · cases h
        · next q hq =>
          obtain ⟨hqvalue, rfl, rfl⟩ := CallResult.mk.inj (Option.some.inj h)
          exact ⟨r.invocations, r.rest, q.invocations, by rw [hr, ← hvalue], by rw [hq, ← hqvalue], rfl⟩
      · next hvalue =>
        obtain rfl := Option.some.inj h
        exact absurd rfl hvalue
  · rintro ⟨xs, left, ys, hfirst, hsecond, rfl⟩
    simp [andThen, hfirst, hsecond]

/-- The traces of `txs` in order, each retried on its own: 0 to 9 WAITs of one, its OK, then the next (R144). -/
def RetriedTrace : List Transaction → List Invocation → Prop
  | [], invs => invs = []
  | tx :: txs, invs => ∃ k ≤ 9, ∃ later, RetriedTrace txs later ∧ invs = retriedTransfer tx k ++ later

theorem retriedTrace_append (xs ys : List Transaction) (invs : List Invocation) :
    RetriedTrace (xs ++ ys) invs ↔ ∃ us vs, RetriedTrace xs us ∧ RetriedTrace ys vs ∧ invs = us ++ vs := by
  induction xs generalizing invs with
  | nil => simp [RetriedTrace]
  | cons tx txs ih =>
    simp only [List.cons_append, RetriedTrace, ih]
    constructor
    · rintro ⟨k, hk, _, ⟨us, vs, hus, hvs, rfl⟩, rfl⟩
      exact ⟨_, vs, ⟨k, hk, us, hus, rfl⟩, hvs, (List.append_assoc ..).symm⟩
    · rintro ⟨_, vs, ⟨k, hk, us, hus, rfl⟩, hvs, rfl⟩
      exact ⟨k, hk, _, ⟨us, vs, hus, hvs, rfl⟩, List.append_assoc ..⟩

/-- One invocation to ten for each transaction (R113). -/
theorem RetriedTrace.length_bounds {txs : List Transaction} {invs : List Invocation} (h : RetriedTrace txs invs) :
    txs.length ≤ invs.length ∧ invs.length ≤ 10 * txs.length := by
  induction txs generalizing invs with
  | nil =>
    obtain rfl : invs = [] := h
    simp
  | cons tx txs ih =>
    obtain ⟨k, hk, later, hlater, rfl⟩ := h
    have := ih hlater
    simp only [List.length_append, retriedTransfer_length, List.length_cons]
    omega

/-- One invocation for each transaction if every answer was OK. -/
theorem RetriedTrace.length_of_all_ok {txs : List Transaction} {invs : List Invocation} (h : RetriedTrace txs invs)
    (hok : ∀ x ∈ invs, x.ack = config.ackOk) : invs.length = txs.length := by
  induction txs generalizing invs with
  | nil =>
    obtain rfl : invs = [] := h
    rfl
  | cons tx txs ih =>
    obtain ⟨k, _, later, hlater, rfl⟩ := h
    obtain ⟨hhere, hthere⟩ := List.forall_mem_append.1 hok
    obtain rfl := eq_zero_of_retriedTransfer_all_ok hhere
    rw [retriedTransfer_zero, List.singleton_append, List.length_cons, List.length_cons, ih hlater hthere]

/-- An operation succeeds exactly on the retried traces of `txs`, and reads no answer beyond its own. -/
def SucceedsExactlyOn (op : List (BitVec 3) → Option (CallResult Bool)) (txs : List Transaction) : Prop :=
  ∀ answers invs rest, op answers = some ⟨true, invs, rest⟩ ↔
    RetriedTrace txs invs ∧ answers = invs.map Invocation.ack ++ rest

theorem xferOk_succeedsExactlyOn (tx : Transaction) : SucceedsExactlyOn (xferOk tx) [tx] := by
  intro answers invs rest
  simp only [xferOk_eq_true_iff, RetriedTrace, exists_eq_left, List.append_nil, ← and_assoc, exists_and_right]

theorem SucceedsExactlyOn.andThen {first second : List (BitVec 3) → Option (CallResult Bool)} {xs ys : List Transaction}
    (hf : SucceedsExactlyOn first xs) (hs : SucceedsExactlyOn second ys) :
    SucceedsExactlyOn (andThen first second) (xs ++ ys) := by
  intro answers invs rest
  rw [andThen_eq_true_iff, retriedTrace_append]
  constructor
  · rintro ⟨us, left, vs, hfirst, hsecond, rfl⟩
    obtain ⟨hus, rfl⟩ := (hf _ _ _).1 hfirst
    obtain ⟨hvs, rfl⟩ := (hs _ _ _).1 hsecond
    exact ⟨⟨us, vs, hus, hvs, rfl⟩, by simp⟩
  · rintro ⟨⟨us, vs, hus, hvs, rfl⟩, rfl⟩
    exact ⟨us, vs.map Invocation.ack ++ rest, vs, (hf _ _ _).2 ⟨hus, by simp⟩, (hs _ _ _).2 ⟨hvs, rfl⟩, rfl⟩

/-! ### `write_ap` -/

theorem writeApCall_succeedsExactlyOn (a v : Word) :
    SucceedsExactlyOn (writeApCall a v) [selectWrite a, apWrite a v, rdbuffRead] :=
  (xferOk_succeedsExactlyOn _).andThen ((xferOk_succeedsExactlyOn _).andThen (xferOk_succeedsExactlyOn _))

/-- A retried trace of three transactions is three numbers of WAITs. -/
theorem retriedTrace_three_iff (x y z : Transaction) (invs : List Invocation) :
    RetriedTrace [x, y, z] invs ↔ ∃ i j k, i ≤ 9 ∧ j ≤ 9 ∧ k ≤ 9 ∧
      invs = retriedTransfer x i ++ retriedTransfer y j ++ retriedTransfer z k := by
  simp only [RetriedTrace, exists_eq_left, List.append_nil]
  constructor
  · rintro ⟨i, hi, _, ⟨j, hj, _, ⟨k, hk, rfl⟩, rfl⟩, rfl⟩
    exact ⟨i, j, k, hi, hj, hk, (List.append_assoc ..).symm⟩
  · rintro ⟨i, j, k, hi, hj, hk, rfl⟩
    exact ⟨i, hi, _, ⟨j, hj, _, ⟨k, hk, rfl⟩, rfl⟩, List.append_assoc ..⟩

/-- The AP write of `write_ap` in the fields of the address (R142). -/
theorem apWrite_eq (a v : Word) : apWrite a v = ⟨hdr .ap .write (a.extractLsb' 2 2), some (leBytes v)⟩ := by
  rw [apWrite, hdrAt, regSel_eq]

/-- Settles O42: `write_ap` succeeds exactly on the retried traces of its three transactions, whose numbers of WAITs are free. -/
theorem successfulApWriteIsThreeTransactions : Obligations.SuccessfulApWriteIsThreeTransactions := by
  intro a v waitsThenOk trace
  have htrace : ∀ i j k, trace i j k =
      retriedTransfer (selectWrite a) i ++ retriedTransfer (apWrite a v) j ++ retriedTransfer rdbuffRead k := by
    intro i j k
    rw [apWrite_eq]
    rfl
  have hsucceeds := writeApCall_succeedsExactlyOn a v
  constructor
  · rintro answers ⟨_, invs, rest⟩ h rfl
    obtain ⟨hretried, -⟩ := (hsucceeds _ _ _).1 h
    obtain ⟨hlow, hhigh⟩ := hretried.length_bounds
    simp only [htrace]
    exact ⟨(retriedTrace_three_iff ..).1 hretried, hlow, hhigh, hretried.length_of_all_ok⟩
  · intro i j k rest hi hj hk
    exact (hsucceeds _ _ _).2 ⟨(retriedTrace_three_iff ..).2 ⟨i, j, k, hi, hj, hk, htrace i j k⟩, rfl⟩

end Sys2Proof.Machine
end

section
/-! `write_word` (spec/43_mem_write.md): the answers along a retried trace, and the traces on which `write_word` succeeds. -/

namespace Sys2Proof.Machine

/-! ### The answers along a retried trace -/

/-- Of one transaction's invocations the last alone was answered OK. -/
theorem retriedTransfer_filter_ok (tx : Transaction) (k : Nat) :
    (retriedTransfer tx k).filter (fun i => decide (i.ack = config.ackOk)) = [okInvocation tx] := by
  have hwait : config.ackWait ≠ config.ackOk := by decide
  simp [retriedTransfer, waitInvocation, okInvocation, hwait]

theorem retriedTransfer_ack {tx : Transaction} {k : Nat} {i : Invocation} (h : i ∈ retriedTransfer tx k) :
    i.ack = config.ackOk ∨ i.ack = config.ackWait := by
  obtain hwait | hok := List.mem_append.1 h
  · obtain rfl := List.eq_of_mem_replicate hwait
    exact .inr rfl
  · obtain rfl := List.mem_singleton.1 hok
    exact .inl rfl

/-- The invocations answered OK are one of each transaction, in order. -/
theorem RetriedTrace.filter_ok {txs : List Transaction} {invs : List Invocation} (h : RetriedTrace txs invs) :
    invs.filter (fun i => decide (i.ack = config.ackOk)) = txs.map okInvocation := by
  induction txs generalizing invs with
  | nil =>
    obtain rfl : invs = [] := h
    rfl
  | cons tx txs ih =>
    obtain ⟨k, _, later, hlater, rfl⟩ := h
    rw [List.filter_append, retriedTransfer_filter_ok, ih hlater, List.map_cons, List.singleton_append]

/-- Every other invocation was answered WAIT. -/
theorem RetriedTrace.ack {txs : List Transaction} {invs : List Invocation} (h : RetriedTrace txs invs) :
    ∀ i ∈ invs, i.ack = config.ackOk ∨ i.ack = config.ackWait := by
  induction txs generalizing invs with
  | nil =>
    obtain rfl : invs = [] := h
    exact List.forall_mem_nil _
  | cons tx txs ih =>
    obtain ⟨k, _, later, hlater, rfl⟩ := h
    exact List.forall_mem_append.2 ⟨fun _ => retriedTransfer_ack, ih hlater⟩

/-! ### `write_word` -/

theorem writeDataCall_succeedsExactlyOn (a d : Word) :
    SucceedsExactlyOn (writeDataCall a d) [apWrite config.tarSel a, apWrite config.drwSel d, rdbuffRead] :=
  (xferOk_succeedsExactlyOn _).andThen ((xferOk_succeedsExactlyOn _).andThen (xferOk_succeedsExactlyOn _))

theorem writeWordCall_succeedsExactlyOn (a v : Word) :
    SucceedsExactlyOn (writeWordCall a v) [selectWrite config.apCsw, apWrite config.apCsw cswval, rdbuffRead,
      apWrite config.tarSel a, apWrite config.drwSel v, rdbuffRead] :=
  (writeApCall_succeedsExactlyOn _ _).andThen (writeDataCall_succeedsExactlyOn _ _)

/-- Settles O43: `write_word` succeeds only on a retried trace of its six transactions, whose OK answers are one of each. -/
theorem successfulWordWriteIsSixTransactions : Obligations.SuccessfulWordWriteIsSixTransactions := by
  rintro a v answers ⟨_, invs, rest⟩ h rfl
  obtain ⟨hretried, -⟩ := (writeWordCall_succeedsExactlyOn a v _ _ _).1 h
  obtain ⟨hlow, hhigh⟩ := hretried.length_bounds
  exact ⟨hretried.filter_ok, hretried.ack, hlow, hhigh⟩

end Sys2Proof.Machine
end

section
/-! The failing answers (spec/60_exceptions.md): FAULT and the five patterns that are no code. -/

namespace Sys2Proof.Machine

/-- A code that is neither OK nor WAIT ends the command, whatever the attempt count and the stage (R117). -/
theorem verdict_of_ne_ok_of_ne_wait {c : AckCode} (hok : c ≠ .ok) (hwait : c ≠ .wait) (a : BitVec 4)
    (n : Option Stage) : verdict c a n = .finish false := by
  cases c with
  | ok => exact absurd rfl hok
  | wait => exact absurd rfl hwait
  | fault => rfl
  | protocolError => rfl

/-- While busy such an answer is the abort entry of R198, after its invocation is recorded and its code held in `ack_q`. -/
theorem exec_ackInstr_aborts {s : State} {tx : Transaction} (h : xact s.block = some tx) {b : BitVec 3} {c : AckCode}
    (hcode : decodeAck b = c) (hok : c ≠ .ok) (hwait : c ≠ .wait) :
    exec (ackInstr b) s = .next { s with
      block := { s.block with stage := .idle, attempt := 0#4, ackQ := c, rspValid := true, rspOk := false }
      history := s.history ++ [.invoked ⟨tx.header, tx.payload, b⟩, .responded false] } := by
  rw [exec_ackInstr, invoke_busy h, hcode, verdict_of_ne_ok_of_ne_wait hok hwait]
  simp [conclude, abort, finish, respond]

/-- Settles O14: each of the six rows is its pattern's `ackInstr`, and each pattern decodes to a code that aborts. -/
theorem faultAndProtocolErrorAbortAtOnce : Obligations.FaultAndProtocolErrorAbortAtOnce := by
  intro s tx h
  have faultAborts {b : BitVec 3} (hb : decodeAck b = .fault) := exec_ackInstr_aborts h hb nofun nofun
  have errorAborts {b : BitVec 3} (hb : decodeAck b = .protocolError) := exec_ackInstr_aborts h hb nofun nofun
  exact ⟨faultAborts (b := 0b100#3) rfl, errorAborts (b := 0b000#3) rfl, errorAborts (b := 0b011#3) rfl,
    errorAborts (b := 0b101#3) rfl, errorAborts (b := 0b110#3) rfl, errorAborts (b := 0b111#3) rfl⟩

end Sys2Proof.Machine
end

section
/-! The decoder and the encoder (spec/30_encoding.md): the rows of the opcode table as three formats, each with the two
halves of its round trip. -/

namespace Sys2Proof.Machine

/-! ### The rows by format -/

/-- Every row of the table is a command record's, a header's or an acknowledge pattern's (R80, R87, R92). -/
theorem instr_cases (i : Instr) :
    (∃ op a d, i = commandInstr op a d) ∨ (∃ r p, i = headerInstr r p) ∨ ∃ b, i = ackInstr b := by
  cases i with
  | writeDp a d => exact .inl ⟨0b00#2, a, d, rfl⟩
  | writeAp a d => exact .inl ⟨0b01#2, a, d, rfl⟩
  | writeWord a d => exact .inl ⟨0b10#2, a, d, rfl⟩
  | reserved a d => exact .inl ⟨0b11#2, a, d, rfl⟩
  | hdrDpW0 p => exact .inr (.inl ⟨⟨.dp, .write, 0b00#2⟩, p, rfl⟩)
  | hdrDpW4 p => exact .inr (.inl ⟨⟨.dp, .write, 0b01#2⟩, p, rfl⟩)
  | hdrDpW8 p => exact .inr (.inl ⟨⟨.dp, .write, 0b10#2⟩, p, rfl⟩)
  | hdrDpWC p => exact .inr (.inl ⟨⟨.dp, .write, 0b11#2⟩, p, rfl⟩)
  | hdrDpR0 p => exact .inr (.inl ⟨⟨.dp, .read, 0b00#2⟩, p, rfl⟩)
  | hdrDpR4 p => exact .inr (.inl ⟨⟨.dp, .read, 0b01#2⟩, p, rfl⟩)
  | hdrDpR8 p => exact .inr (.inl ⟨⟨.dp, .read, 0b10#2⟩, p, rfl⟩)
  | hdrDpRC p => exact .inr (.inl ⟨⟨.dp, .read, 0b11#2⟩, p, rfl⟩)
  | hdrApW0 p => exact .inr (.inl ⟨⟨.ap, .write, 0b00#2⟩, p, rfl⟩)
  | hdrApW4 p => exact .inr (.inl ⟨⟨.ap, .write, 0b01#2⟩, p, rfl⟩)
  | hdrApW8 p => exact .inr (.inl ⟨⟨.ap, .write, 0b10#2⟩, p, rfl⟩)
  | hdrApWC p => exact .inr (.inl ⟨⟨.ap, .write, 0b11#2⟩, p, rfl⟩)
  | hdrApR0 p => exact .inr (.inl ⟨⟨.ap, .read, 0b00#2⟩, p, rfl⟩)
  | hdrApR4 p => exact .inr (.inl ⟨⟨.ap, .read, 0b01#2⟩, p, rfl⟩)
  | hdrApR8 p => exact .inr (.inl ⟨⟨.ap, .read, 0b10#2⟩, p, rfl⟩)
  | hdrApRC p => exact .inr (.inl ⟨⟨.ap, .read, 0b11#2⟩, p, rfl⟩)
  | ackProtocolError000 => exact .inr (.inr ⟨0b000#3, rfl⟩)
  | ackOk001 => exact .inr (.inr ⟨0b001#3, rfl⟩)
  | ackWait010 => exact .inr (.inr ⟨0b010#3, rfl⟩)
  | ackProtocolError011 => exact .inr (.inr ⟨0b011#3, rfl⟩)
  | ackFault100 => exact .inr (.inr ⟨0b100#3, rfl⟩)
  | ackProtocolError101 => exact .inr (.inr ⟨0b101#3, rfl⟩)
  | ackProtocolError110 => exact .inr (.inr ⟨0b110#3, rfl⟩)
  | ackProtocolError111 => exact .inr (.inr ⟨0b111#3, rfl⟩)

/-- The four values of a two-bit field. -/
theorem two_bit_cases (x : BitVec 2) : x = 0b00#2 ∨ x = 0b01#2 ∨ x = 0b10#2 ∨ x = 0b11#2 := by
  revert x; decide

@[simp] theorem wellFormed_commandInstr (op : BitVec 2) (a d : Word) : (commandInstr op a d).wellFormed = true := by
  obtain rfl | rfl | rfl | rfl := two_bit_cases op <;> rfl

/-- R91 for a header row: a payload exactly for a write. -/
theorem wellFormed_headerInstr_iff (r : RegRef) (p : Option Payload) :
    (headerInstr r p).wellFormed = true ↔ p.isSome = !r.dir.bit := by
  have hbool : (headerInstr r p).wellFormed = (p.isSome == !r.dir.bit) := by
    obtain ⟨k, d, sel⟩ := r
    obtain rfl | rfl | rfl | rfl := two_bit_cases sel <;> cases k <;> cases d <;> cases p <;> rfl
  rw [hbool, beq_iff_eq]

@[simp] theorem wellFormed_ackInstr (b : BitVec 3) : (ackInstr b).wellFormed = true := by
  revert b; decide

@[simp] theorem encode_commandInstr (op : BitVec 2) (a d : Word) :
    encode (commandInstr op a d) = commandBytes op a d := by
  obtain rfl | rfl | rfl | rfl := two_bit_cases op <;> rfl

@[simp] theorem encode_headerInstr (r : RegRef) (p : Option Payload) :
    encode (headerInstr r p) = transactionBytes r.header p := by
  obtain ⟨k, d, sel⟩ := r
  obtain rfl | rfl | rfl | rfl := two_bit_cases sel <;> cases k <;> cases d <;> rfl

@[simp] theorem encode_ackInstr (b : BitVec 3) : encode (ackInstr b) = ackBytes b := by
  revert b; decide

/-! ### The round trip -/

/-- Settles O1: each format's decoder undoes its encoder. -/
theorem decodingAnEncodedInstructionGivesItBack : Obligations.DecodingAnEncodedInstructionGivesItBack := by
  intro i hwf
  obtain ⟨op, a, d, rfl⟩ | ⟨r, p, rfl⟩ | ⟨b, rfl⟩ := instr_cases i
  · rw [encode_commandInstr, decode_commandBytes]
  · rw [encode_headerInstr, decode_transactionBytes,
      decodeTransaction_header r p ((wellFormed_headerInstr_iff r p).1 hwf)]
  · rw [encode_ackInstr, decode_ackBytes]

/-- An accepted transaction is a well-formed header row, and its bytes are that row's (R89, R91). -/
theorem encode_of_decodeTransaction {h : Byte} {p : Option Payload} {i : Instr} (e : decodeTransaction h p = .ok i) :
    i.wellFormed = true ∧ encode i = transactionBytes h p := by
  obtain ⟨r, rfl, hfits, rfl⟩ := decodeTransaction_ok e
  exact ⟨(wellFormed_headerInstr_iff r p).2 hfits, encode_headerInstr r p⟩

/-- A byte with nothing above its low `k` bits is those bits, widened again. -/
theorem setWidth_setWidth_of_lt {b : Byte} {k : Nat} (hb : b.toNat < 2 ^ k) : (b.setWidth k).setWidth 8 = b := by
  apply BitVec.eq_of_toNat_eq
  rw [BitVec.toNat_setWidth, BitVec.toNat_setWidth, Nat.mod_eq_of_lt hb, Nat.mod_eq_of_lt b.isLt]

theorem ackBytes_setWidth {b : Byte} (hb : b.toNat < 8) : ackBytes (b.setWidth 3) = [b] :=
  congrArg ([·]) (setWidth_setWidth_of_lt (k := 3) hb)

theorem commandBytes_ofLeBytes {op : Byte} (hop : op.toNat < 4) (a d : Payload) :
    commandBytes (op.setWidth 2) (ofLeBytes a) (ofLeBytes d) = d.bytes ++ a.bytes ++ [op] := by
  rw [commandBytes, leBytes_ofLeBytes, leBytes_ofLeBytes, setWidth_setWidth_of_lt (k := 2) hop]

/-- Settles O2, a case a length of `decode`: each length that is accepted is one format's. -/
theorem acceptedBytesAreTheEncodingOfTheirInstruction : Obligations.AcceptedBytesAreTheEncodingOfTheirInstruction := by
  intro bytes i e
  unfold decode at e
  split at e
  case h_1 b =>
    split at e
    · next hlow =>
      obtain rfl := Except.ok.inj e
      exact ⟨wellFormed_ackInstr _, by rw [encode_ackInstr, ackBytes_setWidth hlow]⟩
    · exact encode_of_decodeTransaction e
  case h_2 h p0 p1 p2 p3 => exact encode_of_decodeTransaction e
  case h_3 d0 d1 d2 d3 a0 a1 a2 a3 op =>
    split at e
    · next hlow =>
      obtain rfl := Except.ok.inj e
      exact ⟨wellFormed_commandInstr .., by rw [encode_commandInstr, commandBytes_ofLeBytes hlow]; rfl⟩
    · cases e
  case h_4 => cases e

/-- Settles O3: the ten words and the two rejected bytes, each run through the decoder. -/
theorem specWordsDecodeToTheirRows : Obligations.SpecWordsDecodeToTheirRows := by
  unfold Obligations.SpecWordsDecodeToTheirRows
  decide

/-- Settles O7: the configured constants, computed. -/
theorem cswValueIsOneConstant : Obligations.CswValueIsOneConstant := by
  unfold Obligations.CswValueIsOneConstant
  decide

end Sys2Proof.Machine
end

section
/-! What one step does to the block and to the history: each verdict as a function of the block and the events it adds,
ACCEPT as one equation, and the four kinds of step. The invariants and the independence claims are derived from these. -/

namespace Sys2Proof.Machine

/-! ### A verdict's effect (R117) -/

/-- The block after a verdict. -/
def Verdict.onBlock (v : Verdict) (b : Block) : Block :=
  match v with
  | .reissue => { b with attempt := b.attempt + 1#4 }
  | .advance st => { b with stage := st, attempt := 0#4 }
  | .finish ok => { b with stage := .idle, attempt := 0#4, rspValid := true, rspOk := ok }

/-- What a verdict adds to the history: the response, when it ends the command. -/
def Verdict.events (v : Verdict) : List Event :=
  match v with
  | .reissue => []
  | .advance _ => []
  | .finish ok => [.responded ok]

theorem conclude_eq (v : Verdict) (s : State) :
    conclude v s = { s with block := v.onBlock s.block, history := s.history ++ v.events } := by
  match v with
  | .reissue => simp [conclude, Verdict.onBlock, Verdict.events]
  | .advance st => simp [conclude, Verdict.onBlock, Verdict.events]
  | .finish true => rfl
  | .finish false => rfl

/-- The verdict on answer `b` to the block's transaction. -/
def Block.verdictOn (blk : Block) (b : BitVec 3) : Verdict :=
  verdict (decodeAck b) blk.attempt (nextStage blk.stage)

/-- INVOKE while busy: the invocation and what its verdict adds are recorded, and the block changes as the verdict
says. -/
theorem invoke_eq {s : State} {tx : Transaction} (h : xact s.block = some tx) (b : BitVec 3) :
    invoke b s = { s with
      block := (s.block.verdictOn b).onBlock { s.block with ackQ := decodeAck b }
      history := s.history ++ .invoked ⟨tx.header, tx.payload, b⟩ :: (s.block.verdictOn b).events } := by
  rw [invoke_busy h, conclude_eq, Block.verdictOn]
  simp

theorem xact_of_busy {b : Block} (h : b.stage ≠ .idle) : ∃ tx, xact b = some tx :=
  Option.ne_none_iff_exists'.1 fun hnone => h ((xact_eq_none_iff b).1 hnone)

theorem busy_of_xact {b : Block} {tx : Transaction} (h : xact b = some tx) : b.stage ≠ .idle := fun hidle => by
  rw [(xact_eq_none_iff b).2 hidle] at h
  cases h

/-! ### ACCEPT (R81, R82) -/

/-- The stage in which a command starts; the reserved one ends at once. -/
def firstStage (op : BitVec 2) : Stage :=
  if op = 0b00#2 then .dpWr else if op = 0b01#2 then .apSel else if op = 0b10#2 then .wwSel else .idle

theorem firstStage_eq_idle_iff (op : BitVec 2) : firstStage op = .idle ↔ op = 0b11#2 := by
  revert op; decide

theorem owner_firstStage {op : BitVec 2} (h : firstStage op ≠ .idle) : (firstStage op).owner = some op := by
  revert op; decide

/-- What ACCEPT adds to the history: the reserved command is answered in the same step. -/
def acceptEvents (r : CmdRecord) : List Event :=
  if r.op = 0b11#2 then [.accepted r, .responded false] else [.accepted r]

theorem accepted_eq (r : CmdRecord) (s : State) :
    accepted r s = { s with
      block := { s.block with
        stage := firstStage r.op, attempt := 0#4, opQ := r.op, addrQ := r.addr, dataQ := r.data
        rspValid := decide (r.op = 0b11#2), rspOk := s.block.rspOk && decide (r.op ≠ 0b11#2) }
      history := s.history ++ acceptEvents r } := by
  obtain h | h | h | h := two_bit_cases r.op <;> simp [accepted, firstStage, acceptEvents, accept, respond, h]

section
variable (r : CmdRecord) (s : State)
@[simp] theorem accepted_stage : (accepted r s).block.stage = firstStage r.op := by rw [accepted_eq]
@[simp] theorem accepted_attempt : (accepted r s).block.attempt = 0#4 := by rw [accepted_eq]
@[simp] theorem accepted_opQ : (accepted r s).block.opQ = r.op := by rw [accepted_eq]
@[simp] theorem accepted_addrQ : (accepted r s).block.addrQ = r.addr := by rw [accepted_eq]
@[simp] theorem accepted_dataQ : (accepted r s).block.dataQ = r.data := by rw [accepted_eq]
@[simp] theorem accepted_rspValid : (accepted r s).block.rspValid = decide (r.op = 0b11#2) := by rw [accepted_eq]
@[simp] theorem accepted_rspOk : (accepted r s).block.rspOk = (s.block.rspOk && decide (r.op ≠ 0b11#2)) := by
  rw [accepted_eq]
@[simp] theorem accepted_commands : (accepted r s).commands = s.commands := by rw [accepted_eq]
@[simp] theorem accepted_replies : (accepted r s).replies = s.replies := by rw [accepted_eq]
@[simp] theorem accepted_resetIn : (accepted r s).resetIn = s.resetIn := by rw [accepted_eq]
@[simp] theorem accepted_outside : (accepted r s).outside = s.outside := by rw [accepted_eq]
@[simp] theorem accepted_draws : (accepted r s).draws = s.draws := by rw [accepted_eq]
@[simp] theorem accepted_history : (accepted r s).history = s.history ++ acceptEvents r := by rw [accepted_eq]
end

/-! ### The kinds of step -/

/-- What a step that goes on does: reset; an idle block left alone, another agent's transaction at most being recorded;
ACCEPT of the record presented; or the block's own transaction with an answer `b`. -/
inductive Effect (s t : State) : Prop
  | reset (applied : s.resetIn ≠ .released) (eq : t = applyReset s)
  | rest (released : s.resetIn = .released) (idle : s.block.stage = .idle) (block : t.block = s.block)
      (es : List Event) (foreign : ∀ e ∈ es, ∃ inv, e = .outside inv) (history : t.history = s.history ++ es)
  | accept (released : s.resetIn = .released) (idle : s.block.stage = .idle) (r : CmdRecord) (cs : List CmdRecord)
      (commands : s.commands = r :: cs) (eq : t = accepted r { s with commands := cs })
  | invoke (released : s.resetIn = .released) (tx : Transaction) (xact_eq : xact s.block = some tx) (b : BitVec 3)
      (block : t.block = (s.block.verdictOn b).onBlock { s.block with ackQ := decodeAck b })
      (history : t.history = s.history ++ .invoked ⟨tx.header, tx.payload, b⟩ :: (s.block.verdictOn b).events)

theorem step_effect {s t : State} (h : step s = .next t) : Effect s t := by
  obtain ⟨hr, rfl⟩ | ⟨hr, -, hi, -, rfl⟩ | ⟨r, cs, hr, -, hi, hc, rfl⟩ | ⟨b, d, u, hr, -, hb, hd, rfl⟩ |
    ⟨o, b, d, u, hr, -, hi, hd, rfl⟩ := step_next_cases h
  · exact .reset hr rfl
  · exact .rest hr hi rfl [] nofun (List.append_nil _).symm
  · exact .accept hr hi r cs hc rfl
  · obtain ⟨hblock, -, -, -, hhist⟩ := hd ▸ drawReply_state s
    obtain ⟨tx, hx⟩ := xact_of_busy hb
    have hx' : xact u.block = some tx := hblock ▸ hx
    refine .invoke hr tx hx b ?_ ?_
    · rw [invoke_eq hx', hblock]
    · rw [invoke_eq hx', hblock, hhist]
  · obtain ⟨hblock, -, -, -, hhist⟩ := hd ▸ drawReply_state { s with outside := none }
    exact .rest hr hi hblock [.outside ⟨o.header, o.payload, b⟩] (by simp) (by rw [State.record_history, hhist])

/-- Another agent's transactions are no events of a kind that never holds of them. -/
theorem countP_of_foreign {es : List Event} (h : ∀ e ∈ es, ∃ inv, e = .outside inv) {p : Event → Bool}
    (hp : ∀ inv, p (.outside inv) = false) : es.countP p = 0 := by
  rw [List.countP_eq_zero]
  intro e he
  obtain ⟨inv, rfl⟩ := h e he
  simp [hp]

/-! ### Another agent's transaction on an idle block's primitive (R223, log 7) -/

theorem withAnswer_of_draw {k : BitVec 3 → State → State} {s u : State} {b : BitVec 3} {d : Word}
    (h : drawReply s = (.returns b d, u)) : withAnswer k s = .next (k b u) := by
  rw [withAnswer, h]

theorem step_of_malformed {s : State} {o : Transaction} {e : DecodeError} (hr : s.resetIn = .released)
    (ho : s.outside = some o) (hi : s.block.stage = .idle) (hd : decodeTransaction o.header o.payload = .error e) :
    step s = .refused (.undecodable e) := by
  rw [step_of_outside hr ho hi, hd]

/-- A well-formed one is answered and recorded. -/
theorem step_of_transaction {s : State} {o : Transaction} {i : Instr} (hr : s.resetIn = .released)
    (ho : s.outside = some o) (hi : s.block.stage = .idle) (hd : decodeTransaction o.header o.payload = .ok i) :
    step s = withAnswer (fun b t => t.record [.outside ⟨o.header, o.payload, b⟩]) { s with outside := none } := by
  rw [step_of_outside hr ho hi, hd]
  obtain ⟨r, hheader, hfits, rfl⟩ := decodeTransaction_ok hd
  have hx : xact ({ s with outside := none } : State).block = none := (xact_eq_none_iff _).2 hi
  rw [hheader]
  exact (exec_headerInstr r o.payload _).trans (rawTransfer_idle hx hfits)

end Sys2Proof.Machine
end

section
/-! What every step keeps (spec/10_state.md parts 2 and 3, spec/60_exceptions.md): the legal block, the attempt count,
the account of commands and the invocations the block can make. -/

namespace Sys2Proof.Machine

/-! ### Legal block states (R21, R22, R23) -/

theorem legal_iff (b : Block) :
    b.legal = true ↔ b.attempt.toNat ≤ 9 ∧ (b.stage = .idle → b.attempt = 0#4) ∧
      (b.stage ≠ .idle → b.stage.owner = some b.opQ) := by
  by_cases h : b.stage = .idle <;> simp [Block.legal, Block.busy, h]

/-- A command keeps its stages (the table of R21). -/
theorem owner_nextStage {st st' : Stage} (h : nextStage st = some st') : st'.owner = st.owner := by
  cases st <;> cases h <;> rfl

theorem nextStage_ne_idle {st st' : Stage} (h : nextStage st = some st') : st' ≠ .idle := by
  cases st <;> cases h <;> decide

theorem attempt_succ {a : BitVec 4} (h : a.toNat < 9) : (a + 1#4).toNat = a.toNat + 1 := by
  rw [BitVec.toNat_add]
  simp
  omega

/-- Which verdicts an answer can bring a block, with what each rests on (R117). -/
theorem verdictOn_cases (blk : Block) (b : BitVec 3) :
    (decodeAck b = .wait ∧ blk.attempt.toNat < 9 ∧ blk.verdictOn b = .reissue) ∨
    (∃ st, decodeAck b = .ok ∧ nextStage blk.stage = some st ∧ blk.verdictOn b = .advance st) ∨
    (∃ ok, (ok = true → nextStage blk.stage = none) ∧ blk.verdictOn b = .finish ok) := by
  obtain ⟨hack, hlt, hv⟩ | ⟨st, hack, hnext, hv⟩ | ⟨-, hnext, hv⟩ | ⟨-, -, hv⟩ :=
    verdict_cases (decodeAck b) blk.attempt (nextStage blk.stage)
  · exact .inl ⟨hack, hlt, hv⟩
  · exact .inr (.inl ⟨st, hack, hnext, hv⟩)
  · exact .inr (.inr ⟨true, fun _ => hnext, hv⟩)
  · exact .inr (.inr ⟨false, nofun, hv⟩)

/-- Settles O33, by the kinds of step and, for an answer, by its verdict. -/
theorem legalBlockIsKeptByEveryStep : Obligations.LegalBlockIsKeptByEveryStep := by
  intro s t hlegal hstep
  cases step_effect hstep with
  | reset _ ht => rw [ht, applyReset_block]; decide
  | rest _ _ hblock => rwa [hblock]
  | accept _ _ r cs _ ht =>
    rw [ht, legal_iff, accepted_attempt, accepted_stage, accepted_opQ]
    exact ⟨Nat.zero_le 9, fun _ => rfl, owner_firstStage⟩
  | invoke _ tx hx b hblock =>
    obtain ⟨hle, -, howner⟩ := (legal_iff _).1 hlegal
    have hbusy := busy_of_xact hx
    rw [hblock, legal_iff]
    obtain ⟨-, hlt, hv⟩ | ⟨st, -, hnext, hv⟩ | ⟨ok, -, hv⟩ := verdictOn_cases s.block b
    · rw [hv]
      exact ⟨(attempt_succ hlt).trans_le hlt, fun h => absurd h hbusy, howner⟩
    · rw [hv]
      exact ⟨Nat.zero_le 9, fun _ => rfl, fun _ => (owner_nextStage hnext).trans (howner hbusy)⟩
    · rw [hv]
      exact ⟨Nat.zero_le 9, fun _ => rfl, fun h => absurd rfl h⟩

/-! ### The attempt count (R22, R62) -/

theorem attemptCounts_iff (s : State) :
    s.attemptCounts = true ↔ ∀ tx, xact s.block = some tx → trailingWaits tx s.history = s.block.attempt.toNat := by
  unfold State.attemptCounts
  split
  · next h => simp [h]
  · next tx h => simp [h]

theorem attemptCounts_of_idle {s : State} (h : s.block.stage = .idle) : s.attemptCounts = true := by
  rw [attemptCounts_iff, (xact_eq_none_iff _).2 h]
  nofun

/-- One more WAIT at the end. -/
theorem trailingWaits_append_wait (tx : Transaction) (h : List Event) :
    trailingWaits tx (h ++ [waitEvent tx]) = trailingWaits tx h + 1 := by
  simp [trailingWaits]

/-- Any other event at the end starts the count again. -/
theorem trailingWaits_append_of_ne {tx : Transaction} {e : Event} (he : e ≠ waitEvent tx) (h : List Event) :
    trailingWaits tx (h ++ [e]) = 0 := by
  simp [trailingWaits, he]

/-- Settles O34: a WAIT adds one to both sides, and whatever else leaves the block busy ends the history with an event
that is no WAIT and sets `attempt` to 0. -/
theorem attemptCountsTheTrailingWaits : Obligations.AttemptCountsTheTrailingWaits := by
  intro s t hcounts hstep
  cases step_effect hstep with
  | reset _ ht => exact attemptCounts_of_idle (by rw [ht]; rfl)
  | rest _ hidle hblock => exact attemptCounts_of_idle (by rw [hblock, hidle])
  | accept _ _ r cs _ ht =>
    by_cases hop : r.op = 0b11#2
    · exact attemptCounts_of_idle (by rw [ht, accepted_stage, (firstStage_eq_idle_iff _).2 hop])
    · rw [ht, attemptCounts_iff, accepted_history, accepted_attempt, acceptEvents, if_neg hop]
      exact fun tx _ => trailingWaits_append_of_ne (by simp [waitEvent]) _
  | invoke _ tx hx b hblock hhist =>
    obtain ⟨hack, hlt, hv⟩ | ⟨st, hack, -, hv⟩ | ⟨ok, -, hv⟩ := verdictOn_cases s.block b
    · rw [attemptCounts_iff, hblock, hhist, hv]
      intro tx' hx'
      obtain rfl : tx = tx' := Option.some.inj (hx.symm.trans hx')
      obtain rfl := (decodeAck_eq_wait_iff b).1 hack
      calc trailingWaits tx (s.history ++ [waitEvent tx])
        _ = trailingWaits tx s.history + 1 := trailingWaits_append_wait tx _
        _ = s.block.attempt.toNat + 1 := by rw [(attemptCounts_iff s).1 hcounts tx hx]
        _ = (s.block.attempt + 1#4).toNat := (attempt_succ hlt).symm
    · rw [attemptCounts_iff, hblock, hhist, hv]
      intro tx' _
      obtain rfl := (decodeAck_eq_ok_iff b).1 hack
      exact trailingWaits_append_of_ne (by simp [waitEvent, config]) _
    · exact attemptCounts_of_idle (by rw [hblock, hv]; rfl)

/-! ### The account of commands (R134, R148, R173, R221) -/

theorem accounted_iff (s : State) :
    s.accounted = true ↔
      s.history.countP Event.isAccepted = s.history.countP Event.endsCommand + s.block.busy.toNat := by
  rw [State.accounted, decide_eq_true_iff]

theorem busy_toNat_of_idle {b : Block} (h : b.stage = .idle) : b.busy.toNat = 0 := by
  simp [Block.busy, h]

theorem busy_toNat_of_busy {b : Block} (h : b.stage ≠ .idle) : b.busy.toNat = 1 := by
  simp [Block.busy, h]

/-- A step accounts for what it does if it accepts as many commands as it ends, but for the change of `busy`. -/
theorem accounted_append {s t : State} (hs : s.accounted = true) {es : List Event} (ht : t.history = s.history ++ es)
    (hes : es.countP Event.isAccepted + s.block.busy.toNat = es.countP Event.endsCommand + t.block.busy.toNat) :
    t.accounted = true := by
  rw [accounted_iff] at hs ⊢
  rw [ht, List.countP_append, List.countP_append]
  omega

theorem resetEvents_accounted (s : State) :
    (resetEvents s).countP Event.isAccepted + s.block.busy.toNat = (resetEvents s).countP Event.endsCommand := by
  unfold resetEvents
  split
  · next hx => simp [busy_toNat_of_idle ((xact_eq_none_iff _).1 hx)]
  · next tx hx =>
    rw [busy_toNat_of_busy (busy_of_xact hx)]
    split <;> simp [List.countP_cons, Event.isAccepted, Event.endsCommand]

/-- Settles O36: reset and a response end the command that made the block busy; ACCEPT makes it busy or answers at
once. -/
theorem everyCommandEndsExactlyOnce : Obligations.EveryCommandEndsExactlyOnce := by
  intro s t hacc hstep
  cases step_effect hstep with
  | reset _ ht =>
    obtain rfl := ht
    exact accounted_append hacc rfl (resetEvents_accounted s)
  | rest _ _ hblock es hforeign hhist =>
    refine accounted_append hacc hhist ?_
    rw [countP_of_foreign hforeign fun _ => rfl, countP_of_foreign hforeign fun _ => rfl, hblock]
  | accept _ hidle r cs _ ht =>
    refine accounted_append hacc (es := acceptEvents r) (by rw [ht, accepted_history]) ?_
    have hstage : t.block.stage = firstStage r.op := by rw [ht, accepted_stage]
    rw [busy_toNat_of_idle hidle]
    by_cases hop : r.op = 0b11#2
    · rw [busy_toNat_of_idle (hstage.trans ((firstStage_eq_idle_iff _).2 hop)), acceptEvents, if_pos hop]
      rfl
    · rw [busy_toNat_of_busy (hstage.trans_ne (mt (firstStage_eq_idle_iff _).1 hop)), acceptEvents, if_neg hop]
      rfl
  | invoke _ tx hx b hblock hhist =>
    refine accounted_append hacc hhist ?_
    have hbusy := busy_of_xact hx
    rw [busy_toNat_of_busy hbusy]
    obtain ⟨-, -, hv⟩ | ⟨st, -, hnext, hv⟩ | ⟨ok, -, hv⟩ := verdictOn_cases s.block b
    · have hstage : t.block.stage = s.block.stage := by rw [hblock, hv]; rfl
      rw [busy_toNat_of_busy (hstage.trans_ne hbusy), hv]
      rfl
    · have hstage : t.block.stage = st := by rw [hblock, hv]; rfl
      rw [busy_toNat_of_busy (hstage.trans_ne (nextStage_ne_idle hnext)), hv]
      rfl
    · have hstage : t.block.stage = .idle := by rw [hblock, hv]; rfl
      rw [busy_toNat_of_idle hstage, hv]
      rfl

/-! ### The block's invocations (R89, R91) -/

theorem write_emittable (k : Kind) (sel : BitVec 2) (q : Payload) :
    Transaction.emittable ⟨hdr k .write sel, some q⟩ = true := by
  have hmem : hdr k .write sel ∈ emittedHeaders := by cases k <;> revert sel <;> decide
  rw [Transaction.emittable, decide_eq_true hmem, hdr, header_dirBit]
  rfl

theorem rdbuffRead_emittable : rdbuffRead.emittable = true := by decide

/-- A stage issues a register write or the RDBUFF read-back (R132, R145, R169). -/
theorem xact_kinds {b : Block} {tx : Transaction} (h : xact b = some tx) :
    (∃ k sel q, tx = ⟨hdr k .write sel, some q⟩) ∨ tx = rdbuffRead := by
  cases hs : b.stage <;> simp only [xact, hs, reduceCtorEq, Option.some.injEq] at h <;> subst h
  case apFlush | wwCswFlush | wwFlush => exact .inr rfl
  all_goals exact .inl ⟨_, _, _, rfl⟩

theorem xact_emittable {b : Block} {tx : Transaction} (h : xact b = some tx) : tx.emittable = true := by
  obtain ⟨k, sel, q, rfl⟩ | rfl := xact_kinds h
  · exact write_emittable k sel q
  · exact rdbuffRead_emittable

theorem resetEvents_emittable (s : State) : (resetEvents s).all Event.emittable = true := by
  unfold resetEvents
  split
  · rfl
  · next tx hx => split <;> simp [Event.emittable, xact_emittable hx]

theorem acceptEvents_emittable (r : CmdRecord) : (acceptEvents r).all Event.emittable = true := by
  unfold acceptEvents
  split <;> rfl

theorem Verdict.events_emittable (v : Verdict) : v.events.all Event.emittable = true := by
  cases v <;> rfl

/-- Settles O35: of the events a step adds only the stage's transaction, invoked or cut short, is an invocation of the
block. -/
theorem historyHoldsOnlyEmittableInvocations : Obligations.HistoryHoldsOnlyEmittableInvocations := by
  intro s t hall hstep
  cases step_effect hstep with
  | reset _ ht => rw [ht, applyReset_history, List.all_append, hall, resetEvents_emittable, Bool.and_self]
  | rest _ _ _ es hforeign hhist =>
    rw [hhist, List.all_append, hall, Bool.true_and, List.all_eq_true]
    intro e he
    obtain ⟨inv, rfl⟩ := hforeign e he
    rfl
  | accept _ _ r cs _ ht => rw [ht, accepted_history, List.all_append, hall, acceptEvents_emittable, Bool.and_self]
  | invoke _ tx hx b _ hhist =>
    rw [hhist, List.all_append, hall, List.all_cons, Verdict.events_emittable, Bool.and_true, Bool.true_and]
    exact xact_emittable hx

/-! ### Reset -/

/-- Settles O37: the reset state, computed. -/
theorem resetMeetsTheInvariants : Obligations.ResetMeetsTheInvariants := by
  unfold Obligations.ResetMeetsTheInvariants
  decide

end Sys2Proof.Machine
end

section
/-! What a step does not depend on (spec/10_state.md parts 1 and 6, spec/60_exceptions.md part 6, spec/43_mem_write.md
part 2): the elements reset leaves unspecified, the command port of a busy block, addresses and data, and the data read
back. -/

namespace Sys2Proof.Machine

/-! ### The elements R37 leaves unspecified -/

/-- The part of `State.agreesWith` that speaks of the block. -/
structure Block.Agrees (b c : Block) : Prop where
  stage : b.stage = c.stage
  attempt : b.attempt = c.attempt
  rspValid : b.rspValid = c.rspValid
  latches : b.stage ≠ .idle → b.opQ = c.opQ ∧ b.addrQ = c.addrQ ∧ b.dataQ = c.dataQ
  rspOk : b.rspValid = true → b.rspOk = c.rspOk

/-- The same inputs with another block and another history. -/
def State.withBlock (c : Block) (h : List Event) (s : State) : State :=
  { s with block := c, history := h }

theorem agreesWith_withBlock {s : State} {c : Block} (h : s.block.Agrees c) (es : List Event) :
    s.agreesWith (s.withBlock c es) :=
  ⟨h.stage, h.attempt, h.rspValid, h.latches, h.rspOk, rfl, rfl, rfl, rfl, rfl⟩

theorem withBlock_of_agreesWith {s t : State} (h : s.agreesWith t) :
    s.block.Agrees t.block ∧ t = s.withBlock t.block t.history := by
  obtain ⟨hstage, hattempt, hvalid, hlatches, hok, hcommands, hreplies, hreset, houtside, hdraws⟩ := h
  refine ⟨⟨hstage, hattempt, hvalid, hlatches, hok⟩, ?_⟩
  rw [State.withBlock, hcommands, hreplies, hreset, houtside, hdraws]

theorem Block.Agrees.xact_eq {b c : Block} (h : b.Agrees c) : xact b = xact c := by
  by_cases hidle : b.stage = .idle
  · rw [(xact_eq_none_iff b).2 hidle, (xact_eq_none_iff c).2 (h.stage ▸ hidle)]
  · obtain ⟨-, haddr, hdata⟩ := h.latches hidle
    exact xact_congr h.stage haddr hdata

theorem Block.Agrees.verdictOn_eq {b c : Block} (h : b.Agrees c) (a : BitVec 3) : b.verdictOn a = c.verdictOn a := by
  rw [Block.verdictOn, Block.verdictOn, h.stage, h.attempt]

theorem Block.Agrees.refl (b : Block) : b.Agrees b :=
  ⟨rfl, rfl, rfl, fun _ => ⟨rfl, rfl, rfl⟩, fun _ => rfl⟩

/-- A verdict on busy blocks that agree leaves them in agreement, whatever their `ack_q`. -/
theorem Block.Agrees.onBlock {b c : Block} (h : b.Agrees c) (hbusy : b.stage ≠ .idle) (v : Verdict) :
    (v.onBlock b).Agrees (v.onBlock c) := by
  have hlatches := h.latches hbusy
  cases v with
  | reissue => exact ⟨h.stage, congrArg (· + 1#4) h.attempt, h.rspValid, h.latches, h.rspOk⟩
  | advance st => exact ⟨rfl, rfl, h.rspValid, fun _ => hlatches, h.rspOk⟩
  | finish ok => exact ⟨rfl, rfl, rfl, fun hne => absurd rfl hne, fun _ => rfl⟩

/-- ACCEPT leaves any two blocks in agreement (R224). -/
theorem accepted_agrees (r : CmdRecord) (s t : State) : (accepted r s).block.Agrees (accepted r t).block where
  stage := by simp
  attempt := by simp
  rspValid := by simp
  latches _ := by simp
  rspOk h := by
    have hop : r.op = 0b11#2 := by simpa using h
    simp [hop]

/-- The primitive answers whatever the block and the history hold. -/
theorem drawReply_withBlock (c : Block) (h : List Event) (s : State) :
    drawReply (s.withBlock c h) = ((drawReply s).1, (drawReply s).2.withBlock c h) := by
  unfold drawReply State.withBlock
  dsimp only
  split <;> rfl

theorem resetEvents_congr {s : State} {c : Block} (hag : s.block.Agrees c) (h : List Event) :
    resetEvents (s.withBlock c h) = resetEvents s := by
  rw [resetEvents, resetEvents, hag.xact_eq]
  rfl

theorem repliesAfterReset_congr {s : State} {c : Block} (hag : s.block.Agrees c) (h : List Event) :
    repliesAfterReset (s.withBlock c h) = repliesAfterReset s := by
  rw [repliesAfterReset, repliesAfterReset, busy_eq_xact_isSome s.block, hag.xact_eq, ← busy_eq_xact_isSome]
  rfl

/-- INVOKE on busy blocks that agree: the same events, and blocks that agree again. -/
theorem invoke_withBlock {s : State} {c : Block} (hag : s.block.Agrees c) (hbusy : s.block.stage ≠ .idle) (b : BitVec 3)
    (h : List Event) : ∃ c' es, invoke b (s.withBlock c h) = (invoke b s).withBlock c' (h ++ es) ∧
      (invoke b s).block.Agrees c' ∧ (invoke b s).history = s.history ++ es := by
  obtain ⟨tx, hx⟩ := xact_of_busy hbusy
  have hx' : xact (s.withBlock c h).block = some tx := hag.xact_eq.symm.trans hx
  have hack : Block.Agrees { s.block with ackQ := decodeAck b } { c with ackQ := decodeAck b } :=
    ⟨hag.stage, hag.attempt, hag.rspValid, hag.latches, hag.rspOk⟩
  rw [invoke_eq hx, invoke_eq hx', hag.verdictOn_eq b]
  exact ⟨_, _, rfl, hack.onBlock hbusy _, rfl⟩

/-- A busy step whose reply is known. -/
theorem step_of_draw {s u : State} {b : BitVec 3} {d : Word} (hr : s.resetIn = .released) (ho : s.outside = none)
    (hb : s.block.stage ≠ .idle) (hd : drawReply s = (.returns b d, u)) : step s = .next (invoke b u) := by
  rw [step_busy hr ho hb, hd]

/-- Settles O32: each kind of step answers both machines alike, with the same events and blocks that agree again. -/
theorem unspecifiedElementsReachNothing : Obligations.UnspecifiedElementsReachNothing := by
  intro s t s' hagrees hstep
  obtain ⟨hag, ht⟩ := withBlock_of_agreesWith hagrees
  generalize t.block = c at hag ht
  generalize t.history = h at ht
  subst ht
  have hidle' (hi : s.block.stage = .idle) : (s.withBlock c h).block.stage = .idle := hag.stage ▸ hi
  suffices hboth : ∃ c' es, step (s.withBlock c h) = .next (s'.withBlock c' (h ++ es)) ∧ s'.block.Agrees c' ∧
      s'.history = s.history ++ es by
    obtain ⟨c', es, hstep', hag', hhist⟩ := hboth
    exact ⟨_, es, hstep', agreesWith_withBlock hag' _, hhist, rfl⟩
  obtain ⟨hr, rfl⟩ | ⟨hr, ho, hi, hc, rfl⟩ | ⟨r, cs, hr, ho, hi, hc, rfl⟩ | ⟨b, d, u, hr, ho, hb, hd, rfl⟩ |
    ⟨o, b, d, u, hr, ho, hi, hd, rfl⟩ := step_next_cases hstep
  · refine ⟨Block.reset, resetEvents s, ?_, .refl _, rfl⟩
    rw [step_of_reset (by exact hr), applyReset, resetEvents_congr hag, repliesAfterReset_congr hag]
    rfl
  · refine ⟨c, [], ?_, hag, (List.append_nil _).symm⟩
    rw [step_waits (by exact hr) (by exact ho) (hidle' hi) (by exact hc), List.append_nil]
  · refine ⟨_, acceptEvents r, ?_, accepted_agrees r _ { s.withBlock c h with commands := cs }, accepted_history ..⟩
    rw [step_accepts (by exact hr) (by exact ho) (hidle' hi) (by exact hc), accepted_eq, accepted_eq]
    rfl
  · obtain ⟨hblock, -, -, -, hhist⟩ := hd ▸ drawReply_state s
    obtain ⟨c', es, hinvoke, hag', hes⟩ := invoke_withBlock (s := u) (hblock ▸ hag) (hblock ▸ hb) b h
    refine ⟨c', es, ?_, hag', hhist ▸ hes⟩
    have hd' : drawReply (s.withBlock c h) = (.returns b d, u.withBlock c h) := by rw [drawReply_withBlock, hd]
    rw [step_of_draw (by exact hr) (by exact ho) (hag.stage ▸ hb) hd', hinvoke]
  · obtain ⟨hblock, -, -, -, hhist⟩ := hd ▸ drawReply_state { s with outside := none }
    refine ⟨c, [.outside ⟨o.header, o.payload, b⟩], ?_, hblock ▸ hag, congrArg (· ++ _) hhist⟩
    cases hdec : decodeTransaction o.header o.payload with
    | error e =>
      rw [step_of_malformed hr ho hi hdec] at hstep
      cases hstep
    | ok i =>
      rw [step_of_transaction (by exact hr) (by exact ho) (hidle' hi) hdec]
      exact withAnswer_of_draw ((drawReply_withBlock c h _).trans (by rw [hd]))

/-! ### The command port of a busy block (R204) -/

/-- What goes on, goes on to `f` of it; what stops, stops alike. -/
def mapNext (f : State → State) : Host.Outcome State Fault Refusal → Host.Outcome State Fault Refusal
  | .next t => .next (f t)
  | .fault r => .fault r
  | .refused r => .refused r

/-- The same machine with another content of the command port. -/
def State.withCommands (cs : List CmdRecord) (s : State) : State :=
  { s with commands := cs }

theorem drawReply_withCommands (cs : List CmdRecord) (s : State) :
    drawReply (s.withCommands cs) = ((drawReply s).1, (drawReply s).2.withCommands cs) := by
  unfold drawReply State.withCommands
  dsimp only
  split <;> rfl

theorem invoke_withCommands (b : BitVec 3) (cs : List CmdRecord) (s : State) :
    invoke b (s.withCommands cs) = (invoke b s).withCommands cs := by
  cases hx : xact s.block with
  | none => rw [invoke_idle (by exact hx), invoke_idle hx]
  | some tx =>
    rw [invoke_eq (by exact hx), invoke_eq hx]
    rfl

theorem step_withCommands {s : State} (hb : s.block.stage ≠ .idle) (cs : List CmdRecord) :
    step (s.withCommands cs) = mapNext (State.withCommands cs) (step s) := by
  by_cases hr : s.resetIn = .released
  swap
  · rw [step_of_reset hr, step_of_reset (by exact hr)]
    rfl
  cases ho : s.outside with
  | some o =>
    rw [step_of_intrusion hr ho hb, step_of_intrusion (by exact hr) (by exact ho) (by exact hb)]
    rfl
  | none =>
    rw [step_busy hr ho hb, step_busy (by exact hr) (by exact ho) (by exact hb), drawReply_withCommands]
    obtain ⟨reply, u⟩ := drawReply s
    cases reply with
    | never => rfl
    | returns b d => exact congrArg _ (invoke_withCommands b cs u)

/-- A busy step leaves its command port as it is. -/
theorem step_commands {s t : State} (hb : s.block.stage ≠ .idle) (h : step s = .next t) : t.commands = s.commands := by
  have hsame : step s = mapNext (State.withCommands s.commands) (step s) := step_withCommands hb s.commands
  rw [h] at hsame
  have ht : t = t.withCommands s.commands := Host.Outcome.next.inj hsame
  exact (congrArg State.commands ht).trans rfl

theorem Verdict.events_no_accepted (v : Verdict) : v.events.countP Event.isAccepted = 0 := by
  cases v <;> rfl

/-- Settles O11: a busy step maps over the content of the command port, and the events of INVOKE hold no acceptance. -/
theorem commandPortIsIgnoredWhileBusy : Obligations.CommandPortIsIgnoredWhileBusy := by
  intro s cs hb
  have hmap : step { s with commands := cs } = mapNext (State.withCommands cs) (step s) := step_withCommands hb cs
  refine ⟨fun t h => ⟨step_commands hb h, by rw [hmap, h]; rfl⟩, fun f h => by rw [hmap, h]; rfl,
    fun r h => by rw [hmap, h]; rfl, fun t h hr => ?_⟩
  cases step_effect h with
  | reset applied => exact absurd hr applied
  | rest _ hidle => exact absurd hidle hb
  | accept _ hidle => exact absurd hidle hb
  | invoke _ tx _ b _ hhist =>
    rw [hhist, List.countP_append, List.countP_cons, Verdict.events_no_accepted]
    rfl

/-! ### Addresses and data (R170) -/

/-- Settles O27: the same verdict acts on both blocks, and no verdict brings the latches into the four elements. -/
theorem pathDependsOnAcknowledgeCodesAlone : Obligations.PathDependsOnAcknowledgeCodesAlone := by
  intro s t a b hstage hattempt hvalid hok hcode
  by_cases hidle : s.block.stage = .idle
  · have hs : xact s.block = none := (xact_eq_none_iff _).2 hidle
    have ht : xact t.block = none := (xact_eq_none_iff _).2 (hstage ▸ hidle)
    rw [invoke_idle hs, invoke_idle ht]
    exact ⟨hstage, hattempt, hvalid, hok⟩
  · obtain ⟨tx, hs⟩ := xact_of_busy hidle
    obtain ⟨tx', ht⟩ := xact_of_busy (hstage ▸ hidle)
    have hverdict : t.block.verdictOn b = s.block.verdictOn a := by
      rw [Block.verdictOn, Block.verdictOn, hstage, hattempt, hcode]
    rw [invoke_eq hs, invoke_eq ht, hverdict]
    cases s.block.verdictOn a with
    | reissue => exact ⟨hstage, congrArg (· + 1#4) hattempt, hvalid, hok⟩
    | advance st => exact ⟨rfl, rfl, hvalid, hok⟩
    | finish ok => exact ⟨rfl, rfl, rfl, rfl⟩

/-! ### The data read back (R119) -/

/-- Settles O29: of a reply that is taken the step uses the pattern, and a refused step takes none. -/
theorem readDataInfluencesNothing : Obligations.ReadDataInfluencesNothing := by
  intro s b d e rs hused hr
  by_cases hb : s.block.stage = .idle
  · obtain ⟨o, ho⟩ := Option.ne_none_iff_exists'.1 (hused.resolve_left (absurd hb))
    cases hdec : decodeTransaction o.header o.payload with
    | error why =>
      rw [step_of_malformed (by exact hr) (by exact ho) (by exact hb) hdec,
        step_of_malformed (by exact hr) (by exact ho) (by exact hb) hdec]
    | ok i =>
      rw [step_of_transaction (by exact hr) (by exact ho) (by exact hb) hdec,
        step_of_transaction (by exact hr) (by exact ho) (by exact hb) hdec, withAnswer_returns rfl,
        withAnswer_returns rfl]
  · cases ho : s.outside with
    | some o =>
      rw [step_of_intrusion (by exact hr) rfl (by exact hb), step_of_intrusion (by exact hr) rfl (by exact hb)]
    | none =>
      rw [step_of_answer (by exact hr) rfl (by exact hb) rfl, step_of_answer (by exact hr) rfl (by exact hb) rfl]

end Sys2Proof.Machine
end

section
/-! One step (spec/00_scope.md part 6, spec/40_retrying_transfer.md part 2, spec/70_reset_and_hazards.md part 1): when it
waits, accepts or invokes, what it can change, and what reset leaves. -/

namespace Sys2Proof.Machine

/-! ### The events of a step -/

theorem acceptEvents_no_invoked (r : CmdRecord) : (acceptEvents r).countP Event.isInvoked = 0 := by
  unfold acceptEvents
  split <;> rfl

theorem resetEvents_no_invoked (s : State) : (resetEvents s).countP Event.isInvoked = 0 := by
  unfold resetEvents
  split
  · rfl
  · split <;> rfl

theorem Verdict.events_no_invoked (v : Verdict) : v.events.countP Event.isInvoked = 0 := by
  cases v <;> rfl

/-- Settles O25: of the four kinds of step only the block's own transaction adds an invocation. -/
theorem stepMakesOneInvocationWhenBusy : Obligations.StepMakesOneInvocationWhenBusy := by
  intro s t hstep
  cases step_effect hstep with
  | reset applied ht =>
    obtain rfl := ht
    exact ⟨resetEvents s, rfl, by rw [resetEvents_no_invoked, if_neg (fun h => applied h.2)]⟩
  | rest _ hidle _ es hforeign hhist =>
    refine ⟨es, hhist, ?_⟩
    rw [countP_of_foreign hforeign fun _ => rfl, if_neg (fun h => (busy_iff _).1 h.1 hidle)]
  | accept _ hidle r cs _ ht =>
    refine ⟨acceptEvents r, by rw [ht, accepted_history], ?_⟩
    rw [acceptEvents_no_invoked, if_neg (fun h => (busy_iff _).1 h.1 hidle)]
  | invoke hr tx hx b _ hhist =>
    refine ⟨_, hhist, ?_⟩
    rw [if_pos ⟨(busy_iff _).2 (busy_of_xact hx), hr⟩, List.countP_cons, Verdict.events_no_invoked]
    rfl

/-! ### Waiting, accepting, invoking -/

/-- Settles O10: `busy` is a name for the stage, a busy block's command rows do nothing, and of the kinds of step only
another agent's transaction is left to an idle block with nothing presented. -/
theorem busyTakesNoCommandAndIdleWaits : Obligations.BusyTakesNoCommandAndIdleWaits := by
  refine ⟨busy_iff, fun s a d hb => ?_, fun s hi hr hc ho => step_waits hr ho hi hc, fun s t hi hr hc hstep => ?_⟩
  · have leaves := fun op => exec_commandInstr_busy ((busy_iff _).1 hb) op a d
    exact ⟨leaves 0b00#2, leaves 0b01#2, leaves 0b10#2, leaves 0b11#2⟩
  · cases step_effect hstep with
    | reset applied => exact absurd hr applied
    | rest _ _ hblock es hforeign hhist =>
      refine ⟨hblock, ?_⟩
      rw [hhist, List.countP_append, countP_of_foreign hforeign fun _ => rfl, Nat.add_zero]
    | accept _ _ r cs hcommands =>
      rw [hc] at hcommands
      cases hcommands
    | invoke _ tx hx => exact absurd hi (busy_of_xact hx)

/-- Settles O24: `accepted` field by field, and INVOKE with the reply drawn. -/
theorem stepIsAcceptOrInvoke : Obligations.StepIsAcceptOrInvoke := by
  intro s hr ho
  refine ⟨fun r cs hi hc => ⟨_, step_accepts hr ho hi hc, ?_⟩, fun b d rs hb hp => step_of_answer hr ho hb hp,
    fun hb hp => step_of_free_answer hr ho hb hp⟩
  simp [firstStage, acceptEvents_no_invoked]

/-! ### What a step can change -/

/-- Settles O26: the kinds of step, an invocation's by its verdict. -/
theorem controlMovesOnlyForward : Obligations.ControlMovesOnlyForward := by
  intro s t hr hstep
  cases step_effect hstep with
  | reset applied => exact absurd hr applied
  | rest _ _ hblock => exact .inl (by rw [hblock])
  | accept _ hidle r cs hc ht =>
    have hstage : t.block.stage = firstStage r.op := by rw [ht, accepted_stage]
    obtain hop | hop | hop | hop := two_bit_cases r.op
    · exact .inr (.inl ⟨hidle, r, cs, hc, .inl ⟨hop, by rw [hstage, hop]; rfl⟩⟩)
    · exact .inr (.inl ⟨hidle, r, cs, hc, .inr (.inl ⟨hop, by rw [hstage, hop]; rfl⟩)⟩)
    · exact .inr (.inl ⟨hidle, r, cs, hc, .inr (.inr ⟨hop, by rw [hstage, hop]; rfl⟩)⟩)
    · exact .inl (by rw [hstage, hop, hidle]; rfl)
  | invoke _ tx hx b hblock =>
    obtain ⟨-, -, hv⟩ | ⟨st, -, hnext, hv⟩ | ⟨ok, hlast, hv⟩ := verdictOn_cases s.block b
    · exact .inl (by rw [hblock, hv]; rfl)
    · exact .inr (.inr (.inl ⟨busy_of_xact hx, by rw [hblock, hv, hnext]; rfl⟩))
    · rw [hblock, hv]
      exact .inr (.inr (.inr ⟨busy_of_xact hx, rfl, rfl, hlast⟩))

theorem Verdict.onBlock_latches (v : Verdict) (b : Block) :
    (v.onBlock b).opQ = b.opQ ∧ (v.onBlock b).addrQ = b.addrQ ∧ (v.onBlock b).dataQ = b.dataQ := by
  cases v <;> exact ⟨rfl, rfl, rfl⟩

/-- Settles O28: of the kinds of step without reset ACCEPT alone writes the latches. -/
theorem latchesAreWrittenOnlyByAccept : Obligations.LatchesAreWrittenOnlyByAccept := by
  intro s t hr hstep
  cases step_effect hstep with
  | reset applied => exact absurd hr applied
  | rest _ _ hblock => exact .inl (by rw [hblock]; exact ⟨rfl, rfl, rfl⟩)
  | accept _ hidle r cs hc ht =>
    rw [ht, accepted_opQ, accepted_addrQ, accepted_dataQ, accepted_commands]
    exact .inr ⟨hidle, cs, hc, rfl⟩
  | invoke _ tx hx b hblock =>
    rw [hblock]
    exact .inl (Verdict.onBlock_latches _ _)

/-! ### Reset (R220, R221) -/

theorem resetEvents_between {s : State} {tx : Transaction} (hx : xact s.block = some tx)
    (hr : s.resetIn = .betweenInvocations) : resetEvents s = [.abandoned] := by
  simp [resetEvents, hx, hr]

theorem resetEvents_during {s : State} {tx : Transaction} (hx : xact s.block = some tx)
    (hr : s.resetIn = .duringInvocation) : resetEvents s = [.cutShort tx, .abandoned] := by
  simp [resetEvents, hx, hr]

theorem resetEvents_idle {s : State} (hi : s.block.stage = .idle) : resetEvents s = [] := by
  simp [resetEvents, (xact_eq_none_iff _).2 hi]

theorem repliesAfterReset_during {s : State} (hb : s.block.stage ≠ .idle) (hr : s.resetIn = .duringInvocation) :
    repliesAfterReset s = s.replies.tail := by
  simp [repliesAfterReset, (busy_iff _).2 hb, hr]

/-- Only an invocation in progress loses its answer. -/
theorem repliesAfterReset_keeps {s : State} (h : s.block.stage = .idle ∨ s.resetIn = .betweenInvocations) :
    repliesAfterReset s = s.replies := by
  obtain hi | hr := h
  · simp [repliesAfterReset, Block.busy, hi]
  · simp [repliesAfterReset, hr]

/-- Settles O31: `applyReset` field by field, its events and replies by where reset lands. -/
theorem resetAbandonsTheCommand : Obligations.ResetAbandonsTheCommand := by
  intro s hr
  refine ⟨applyReset s, step_of_reset hr, rfl, rfl, rfl, rfl, rfl, rfl, fun hi => ?_, fun tx hx hbetween => ?_,
    fun tx hx hduring => ?_⟩
  · rw [applyReset_replies, applyReset_history, repliesAfterReset_keeps (.inl hi), resetEvents_idle hi]
    exact ⟨rfl, List.append_nil _⟩
  · rw [applyReset_replies, applyReset_history, repliesAfterReset_keeps (.inr hbetween),
      resetEvents_between hx hbetween]
    exact ⟨rfl, rfl⟩
  · rw [applyReset_replies, applyReset_history, repliesAfterReset_during (busy_of_xact hx) hduring,
      resetEvents_during hx hduring]
    exact ⟨rfl, rfl⟩

/-- Settles O30: U7, and reset is sampled before the primitive is asked. -/
theorem unreturnedInvocationIsStuckUntilReset : Obligations.UnreturnedInvocationIsStuckUntilReset :=
  fun s _ hb ho hp => ⟨fun hr => step_of_never hr ho hb hp, fun hr => ⟨applyReset s, step_of_reset hr, rfl⟩⟩

end Sys2Proof.Machine
end

section
/-! The stage tables (spec/41_dp_write.md, spec/42_ap_write.md, spec/43_mem_write.md) and what each answer does at a
stage (spec/40_retrying_transfer.md part 2). -/

namespace Sys2Proof.Machine

/-! ### The stages' transactions -/

/-- DP_WR (R132). -/
theorem xact_dpWr {b : Block} (h : b.stage = .dpWr) {sel : BitVec 2} (hsel : b.addrQ.extractLsb' 2 2 = sel) :
    xact b = some ⟨hdr .dp .write sel, some (leBytes b.dataQ)⟩ := by
  simp only [xact, h, dpWrite_dpAddrOf, hsel]

/-- AP_WR (R145). -/
theorem xact_apWr {b : Block} (h : b.stage = .apWr) {sel : BitVec 2} (hsel : b.addrQ.extractLsb' 2 2 = sel) :
    xact b = some ⟨hdr .ap .write sel, some (leBytes b.dataQ)⟩ := by
  simp only [xact, h, apWrite_eq, hsel]

/-- AP_SEL (R145). -/
theorem xact_apSel {b : Block} (h : b.stage = .apSel) : xact b = some ⟨0xB1#8, some (leBytes (selval b.addrQ))⟩ := by
  simp only [xact, h, selectWrite_eq]

/-- The three flush stages (R145, R169). -/
theorem xact_flush {b : Block} (h : b.stage = .apFlush ∨ b.stage = .wwCswFlush ∨ b.stage = .wwFlush) :
    xact b = some ⟨0xBD#8, none⟩ := by
  obtain h | h | h := h <;> simp only [xact, h, rdbuffRead_eq]

/-- WW_SEL (R169). -/
theorem xact_wwSel {b : Block} (h : b.stage = .wwSel) :
    xact b = some ⟨0xB1#8, some ⟨0x00#8, 0x00#8, 0x00#8, 0x00#8⟩⟩ := by
  have hzero : leBytes (selval config.apCsw) = ⟨0x00#8, 0x00#8, 0x00#8, 0x00#8⟩ := by decide
  simp only [xact, h, selectWrite_eq, hzero]

/-- WW_CSW (R169). -/
theorem xact_wwCsw {b : Block} (h : b.stage = .wwCsw) :
    xact b = some ⟨0xA3#8, some ⟨0x52#8, 0x00#8, 0x00#8, 0x23#8⟩⟩ := by
  have hcsw : leBytes 0x23000052#32 = ⟨0x52#8, 0x00#8, 0x00#8, 0x23#8⟩ := by decide
  simp only [xact, h, cswWrite_eq, hcsw]

/-- WW_TAR (R169). -/
theorem xact_wwTar {b : Block} (h : b.stage = .wwTar) : xact b = some ⟨0x8B#8, some (leBytes b.addrQ)⟩ := by
  simp only [xact, h, tarWrite_eq]

/-- WW_DRW (R169). -/
theorem xact_wwDrw {b : Block} (h : b.stage = .wwDrw) : xact b = some ⟨0xBB#8, some (leBytes b.dataQ)⟩ := by
  simp only [xact, h, drwWrite_eq]

/-- Settles O16: the transaction of DP_WR at each register select. -/
theorem stageTableOfWriteDp : Obligations.StageTableOfWriteDp := by
  intro b h
  exact ⟨by rw [h]; rfl, xact_dpWr h, xact_dpWr h, xact_dpWr h, xact_dpWr h⟩

/-- Settles O17: the three stages, AP_WR at each register select. -/
theorem stageTableOfWriteAp : Obligations.StageTableOfWriteAp := by
  intro b
  refine ⟨fun h => ⟨by rw [h]; rfl, xact_apSel h⟩, fun h => ⟨by rw [h]; rfl, ?_⟩,
    fun h => ⟨by rw [h]; rfl, xact_flush (.inl h)⟩⟩
  exact ⟨xact_apWr h, xact_apWr h, xact_apWr h, xact_apWr h⟩

/-! ### Which command issues which header (R89) -/

/-- A block at a stage, with its address and data latched. -/
def blockAt (st : Stage) (addr data : Word) : Block :=
  { Block.reset with stage := st, addrQ := addr, dataQ := data }

/-- The pairs of R89's table: a header and the `op` of a command that can emit it. -/
def emittedPairs : List (Byte × BitVec 2) :=
  [(0x81#8, 0#2), (0xA9#8, 0#2), (0xB1#8, 0#2), (0xB1#8, 1#2), (0xB1#8, 2#2), (0x99#8, 0#2), (0xBD#8, 1#2),
    (0xBD#8, 2#2), (0xA3#8, 1#2), (0xA3#8, 2#2), (0x8B#8, 1#2), (0x8B#8, 2#2), (0x93#8, 1#2), (0xBB#8, 1#2),
    (0xBB#8, 2#2)]

/-- What a stage issues is in the table with the stage's owner. -/
theorem emitted_mem {b : Block} {tx : Transaction} {op : BitVec 2} (hx : xact b = some tx)
    (howner : b.stage.owner = some op) : (tx.header, op) ∈ emittedPairs := by
  have pair {h q op'} (hx' : xact b = some ⟨h, q⟩) (ho' : b.stage.owner = some op') : (tx.header, op) = (h, op') := by
    rw [Option.some.inj (hx.symm.trans hx'), Option.some.inj (howner.symm.trans ho')]
  have dpWrites : ∀ sel, (hdr .dp .write sel, 0b00#2) ∈ emittedPairs := by decide
  have apWrites : ∀ sel, (hdr .ap .write sel, 0b01#2) ∈ emittedPairs := by decide
  cases hs : b.stage with
  | idle => exact absurd hs (busy_of_xact hx)
  | dpWr => rw [pair (xact_dpWr hs rfl) (by rw [hs]; rfl)]; exact dpWrites _
  | apSel => rw [pair (xact_apSel hs) (by rw [hs]; rfl)]; decide
  | apWr => rw [pair (xact_apWr hs rfl) (by rw [hs]; rfl)]; exact apWrites _
  | apFlush => rw [pair (xact_flush (.inl hs)) (by rw [hs]; rfl)]; decide
  | wwSel => rw [pair (xact_wwSel hs) (by rw [hs]; rfl)]; decide
  | wwCsw => rw [pair (xact_wwCsw hs) (by rw [hs]; rfl)]; decide
  | wwCswFlush => rw [pair (xact_flush (.inr (.inl hs))) (by rw [hs]; rfl)]; decide
  | wwTar => rw [pair (xact_wwTar hs) (by rw [hs]; rfl)]; decide
  | wwDrw => rw [pair (xact_wwDrw hs) (by rw [hs]; rfl)]; decide
  | wwFlush => rw [pair (xact_flush (.inr (.inr hs))) (by rw [hs]; rfl)]; decide

/-- A stage and an operand address for each pair of the table. -/
theorem mem_emitted : ∀ e ∈ emittedPairs,
    ∃ (b : Block) (tx : Transaction), xact b = some tx ∧ b.stage.owner = some e.2 ∧ tx.header = e.1 := by
  simp only [emittedPairs, List.forall_mem_cons]
  exact ⟨⟨blockAt .dpWr 0x0#32 0x0#32, _, rfl, rfl, rfl⟩, ⟨blockAt .dpWr 0x4#32 0x0#32, _, rfl, rfl, rfl⟩,
    ⟨blockAt .dpWr 0x8#32 0x0#32, _, rfl, rfl, rfl⟩, ⟨blockAt .apSel 0x0#32 0x0#32, _, rfl, rfl, rfl⟩,
    ⟨blockAt .wwSel 0x0#32 0x0#32, _, rfl, rfl, rfl⟩, ⟨blockAt .dpWr 0xC#32 0x0#32, _, rfl, rfl, rfl⟩,
    ⟨blockAt .apFlush 0x0#32 0x0#32, _, rfl, rfl, rfl⟩, ⟨blockAt .wwFlush 0x0#32 0x0#32, _, rfl, rfl, rfl⟩,
    ⟨blockAt .apWr 0x0#32 0x0#32, _, rfl, rfl, rfl⟩, ⟨blockAt .wwCsw 0x0#32 0x0#32, _, rfl, rfl, rfl⟩,
    ⟨blockAt .apWr 0x4#32 0x0#32, _, rfl, rfl, rfl⟩, ⟨blockAt .wwTar 0x0#32 0x0#32, _, rfl, rfl, rfl⟩,
    ⟨blockAt .apWr 0x8#32 0x0#32, _, rfl, rfl, rfl⟩, ⟨blockAt .apWr 0xC#32 0x0#32, _, rfl, rfl, rfl⟩,
    ⟨blockAt .wwDrw 0x0#32 0x0#32, _, rfl, rfl, rfl⟩, List.forall_mem_nil _⟩

/-- Settles O19: the sixteen headers computed, and the table read in both directions. -/
theorem blockEmitsExactlyTheNineHeaders : Obligations.BlockEmitsExactlyTheNineHeaders :=
  ⟨by decide, fun _ _ _ => emitted_mem, mem_emitted⟩

/-! ### The answers (R92, R117) -/

theorem decodeAck_ok : decodeAck 0b001#3 = .ok := rfl

theorem verdict_wait_of_lt {a : BitVec 4} (h : a.toNat < 9) (n : Option Stage) : verdict .wait a n = .reissue := by
  rw [verdict, if_pos ((budgetLeft_iff a).2 h)]

theorem verdict_wait_of_not_lt {a : BitVec 4} (h : ¬ a.toNat < 9) (n : Option Stage) :
    verdict .wait a n = .finish false := by
  rw [verdict, if_neg (mt (budgetLeft_iff a).1 h)]

/-- A code that is neither OK nor a WAIT within the budget ends the command with response 0. -/
theorem verdictOn_of_failure {blk : Block} {b : BitVec 3} (hok : decodeAck b ≠ .ok)
    (hwait : decodeAck b = .wait → ¬ blk.attempt.toNat < 9) : blk.verdictOn b = .finish false := by
  by_cases h : decodeAck b = .wait
  · rw [Block.verdictOn, h, verdict_wait_of_not_lt (hwait h)]
  · exact verdict_of_ne_ok_of_ne_wait hok h _ _

theorem decodeAck_of_no_code {b : BitVec 3} (hok : b ≠ 0b001#3) (hwait : b ≠ 0b010#3) (hfault : b ≠ 0b100#3) :
    decodeAck b = .protocolError := by
  rw [decodeAck, if_neg (by exact hok), if_neg (by exact hwait), if_neg (by exact hfault)]

/-- Settles O8: the patterns computed, the rest excluded one by one, and `verdict` a code at a time. -/
theorem acknowledgePatternsDecode : Obligations.AcknowledgePatternsDecode :=
  ⟨rfl, rfl, rfl, fun _ hok hwait hfault => decodeAck_of_no_code hok hwait hfault,
    fun _ _ => ⟨rfl, fun h => verdict_wait_of_lt h _, fun h => verdict_wait_of_not_lt h _, rfl, rfl⟩⟩

/-- An acknowledge row of a busy block, with its verdict known. -/
theorem exec_ackInstr_of_verdict {s : State} {tx : Transaction} (hx : xact s.block = some tx) {b : BitVec 3}
    {v : Verdict} (hv : s.block.verdictOn b = v) :
    exec (ackInstr b) s = .next { s with
      block := v.onBlock { s.block with ackQ := decodeAck b }
      history := s.history ++ .invoked ⟨tx.header, tx.payload, b⟩ :: v.events } := by
  rw [exec_ackInstr, invoke_eq hx, hv]

/-- Settles O12: the verdict on an OK is `advance` or `finish true`, as there is a next stage or none. -/
theorem okAdvancesOrCompletes : Obligations.OkAdvancesOrCompletes := by
  intro s tx hx
  refine ⟨fun st hnext => ?_, fun hnext => ?_⟩
  · have hv : s.block.verdictOn 0b001#3 = .advance st := by rw [Block.verdictOn, hnext, decodeAck_ok]; rfl
    exact exec_ackInstr_of_verdict hx hv
  · have hv : s.block.verdictOn 0b001#3 = .finish true := by rw [Block.verdictOn, hnext, decodeAck_ok]; rfl
    exact exec_ackInstr_of_verdict hx hv

/-- Settles O13: the verdict on a WAIT is `reissue` or `finish false`, as there is budget left or none. -/
theorem waitReissuesAndTheTenthAborts : Obligations.WaitReissuesAndTheTenthAborts := by
  intro s tx hx
  refine ⟨fun hlt => ?_, fun hge => ?_⟩
  · have hv : s.block.verdictOn 0b010#3 = .reissue := verdict_wait_of_lt hlt _
    exact ⟨_, exec_ackInstr_of_verdict hx hv, rfl, attempt_succ hlt, hx⟩
  · have hv : s.block.verdictOn 0b010#3 = .finish false := verdict_wait_of_not_lt hge _
    exact exec_ackInstr_of_verdict hx hv

/-- Settles O15: each pattern is INVOKE, which does nothing in `IDLE`. -/
theorem answersAreNotUsedWhenIdle : Obligations.AnswersAreNotUsedWhenIdle := by
  intro s hidle
  have hx : xact s.block = none := (xact_eq_none_iff _).2 hidle
  have leaves : ∀ b, exec (ackInstr b) s = .next s := fun b => by rw [exec_ackInstr, invoke_idle hx]
  exact ⟨leaves 0b001#3, leaves 0b010#3, leaves 0b100#3, leaves 0b000#3, leaves 0b011#3, leaves 0b101#3,
    leaves 0b110#3, leaves 0b111#3⟩

/-! ### The table of `write_word` (R169) -/

/-- The document's state after an OK: what the successor of the stage makes of the block. -/
theorem docState_of_ok {s : State} {tx : Transaction} (hx : xact s.block = some tx) :
    (invoke 0b001#3 s).block.docState =
      ((verdict .ok s.block.attempt (nextStage s.block.stage)).onBlock { s.block with ackQ := .ok }).docState := by
  rw [invoke_eq hx, Block.verdictOn, decodeAck_ok]

/-- Any final failure of a `write_word` leads to `Aborted` (R169, R198). -/
theorem docState_of_failure {s : State} {tx : Transaction} (hx : xact s.block = some tx) (hop : s.block.opQ = 0b10#2)
    {b : BitVec 3} (hok : decodeAck b ≠ .ok) (hwait : decodeAck b = .wait → ¬ s.block.attempt.toNat < 9) :
    (invoke b s).block.docState = some .aborted := by
  rw [invoke_eq hx, verdictOn_of_failure hok hwait]
  simp [Verdict.onBlock, Block.docState, hop]

/-- Settles O18: in each row the successor's name is that of its stage, or of the response when there is none. -/
theorem stageTableOfWriteWord : Obligations.StageTableOfWriteWord := by
  intro s hop row
  have rowHolds {st tx next entered} (hx : s.block.stage = st → xact s.block = some tx) (hnext : nextStage st = next)
      (hentered : ∀ a blk, blk.opQ = 0b10#2 → ((verdict .ok a next).onBlock blk).docState = some entered) :
      row st tx next entered := by
    intro hst
    refine ⟨hx hst, hnext, ?_, fun b => docState_of_failure (hx hst) hop⟩
    rw [docState_of_ok (hx hst), hst, hnext]
    exact hentered _ _ hop
  exact ⟨rowHolds xact_wwSel rfl fun _ _ _ => rfl, rowHolds xact_wwCsw rfl fun _ _ _ => rfl,
    rowHolds (fun h => xact_flush (.inr (.inl h))) rfl fun _ _ _ => rfl, rowHolds xact_wwTar rfl fun _ _ _ => rfl,
    rowHolds xact_wwDrw rfl fun _ _ _ => rfl,
    rowHolds (fun h => xact_flush (.inr (.inr h))) rfl fun _ blk hblk => by
      simp [verdict, Verdict.onBlock, Block.docState, hblk]⟩

end Sys2Proof.Machine
end

section
/-! The Transaction Headers on the primitive's interface (spec/30_encoding.md part 4, spec/70_reset_and_hazards.md
part 2): a header row as the block's own invocation, as another agent's transaction, or refused; and the instruction a
step runs. -/

namespace Sys2Proof.Machine

/-! ### The three uses of a header row -/

/-- What one use of the primitive does, by its next reply (R110; log 5, log 16). -/
def AnswersWith (k : BitVec 3 → State → State) (i : Instr) (s : State) : Prop :=
  (∀ b d rs, s.replies = .returns b d :: rs → exec i s = .next (k b { s with replies := rs })) ∧
  (s.replies = [] → exec i s = .next (k (Config.freeAck s.draws) { s with draws := s.draws + 1 })) ∧
  (∀ rs, s.replies = .never :: rs → exec i s = .fault .primitiveNeverReturns)

theorem answersWith_of_withAnswer {k : BitVec 3 → State → State} {i : Instr} {s : State}
    (h : exec i s = withAnswer k s) : AnswersWith k i s :=
  ⟨fun _ _ _ hp => h.trans (withAnswer_returns hp), fun hp => h.trans (withAnswer_free hp),
    fun _ hp => h.trans (withAnswer_never hp)⟩

/-- The stage's own transaction is INVOKE (R117). -/
theorem own_answersWith {s : State} (r : RegRef) (p : Option Payload) (hx : xact s.block = some ⟨r.header, p⟩)
    (hfits : p.isSome = !r.dir.bit) : AnswersWith invoke (headerInstr r p) s :=
  answersWith_of_withAnswer ((exec_headerInstr r p s).trans (rawTransfer_own hx hfits))

/-- On an idle block it is another agent's, and recorded as such (R223, log 7). -/
theorem outside_answersWith {s : State} (hidle : s.block.stage = .idle) (r : RegRef) (p : Option Payload)
    (hfits : p.isSome = !r.dir.bit) :
    AnswersWith (fun b t => t.record [.outside ⟨r.header, p, b⟩]) (headerInstr r p) s :=
  answersWith_of_withAnswer ((exec_headerInstr r p s).trans (rawTransfer_idle ((xact_eq_none_iff _).2 hidle) hfits))

/-- During a command any other is refused (U1). -/
theorem exec_foreign {s : State} {tx : Transaction} (hx : xact s.block = some tx) (r : RegRef) (p : Option Payload)
    (hfits : p.isSome = !r.dir.bit) (hne : tx ≠ ⟨r.header, p⟩) :
    exec (headerInstr r p) s = .refused .foreignTransaction :=
  (exec_headerInstr r p s).trans (rawTransfer_foreign hx hfits hne)

/-- A payload against the direction is refused in every state (log 15). -/
theorem exec_misfit {r : RegRef} {p : Option Payload} (h : p.isSome ≠ !r.dir.bit) (s : State) :
    exec (headerInstr r p) s = .refused .payloadMismatch := by
  have hmisfit : p.isSome = r.dir.bit := by simpa using h
  rw [exec_headerInstr, rawTransfer, if_pos hmisfit]

/-- The one read of the block is the RDBUFF read-back (R89). -/
theorem xact_ne_read {b : Block} {tx : Transaction} (hx : xact b = some tx) {r : RegRef}
    (hr : r ≠ ⟨.dp, .read, 0b11#2⟩) : tx ≠ ⟨r.header, none⟩ := by
  obtain ⟨k, sel, q, rfl⟩ | rfl := xact_kinds hx
  · simp
  · intro h
    exact hr (header_injective (congrArg Transaction.header h)).symm

/-- Settles O20: each stage's transaction is a header row's, by the stage tables. -/
theorem emittedHeadersPerformTheInvocation : Obligations.EmittedHeadersPerformTheInvocation := by
  intro s invokes sel data
  exact ⟨fun h hsel => own_answersWith ⟨.dp, .write, 0b00#2⟩ data (xact_dpWr h hsel) rfl,
    fun h hsel => own_answersWith ⟨.dp, .write, 0b01#2⟩ data (xact_dpWr h hsel) rfl,
    fun h hsel => own_answersWith ⟨.dp, .write, 0b10#2⟩ data (xact_dpWr h hsel) rfl,
    fun h hsel => own_answersWith ⟨.dp, .write, 0b11#2⟩ data (xact_dpWr h hsel) rfl,
    fun h => own_answersWith ⟨.dp, .write, 0b10#2⟩ _ (xact_apSel h) rfl,
    fun h => own_answersWith ⟨.dp, .write, 0b10#2⟩ _ (xact_wwSel h) rfl,
    fun h hsel => own_answersWith ⟨.ap, .write, 0b00#2⟩ data (xact_apWr h hsel) rfl,
    fun h hsel => own_answersWith ⟨.ap, .write, 0b01#2⟩ data (xact_apWr h hsel) rfl,
    fun h hsel => own_answersWith ⟨.ap, .write, 0b10#2⟩ data (xact_apWr h hsel) rfl,
    fun h hsel => own_answersWith ⟨.ap, .write, 0b11#2⟩ data (xact_apWr h hsel) rfl,
    fun h => own_answersWith ⟨.ap, .write, 0b00#2⟩ _ (xact_wwCsw h) rfl,
    fun h => own_answersWith ⟨.ap, .write, 0b01#2⟩ _ (xact_wwTar h) rfl,
    fun h => own_answersWith ⟨.ap, .write, 0b11#2⟩ data (xact_wwDrw h) rfl,
    fun h => own_answersWith ⟨.dp, .read, 0b11#2⟩ none (xact_flush h) rfl⟩

/-- Settles O21: the sixteen rows are sixteen Register References on an idle block. -/
theorem outsideTransactionLeavesTheIdleBlock : Obligations.OutsideTransactionLeavesTheIdleBlock := by
  intro s q hidle answered
  have writes (k : Kind) (sel : BitVec 2) := outside_answersWith hidle ⟨k, .write, sel⟩ (some q) rfl
  have reads (k : Kind) (sel : BitVec 2) := outside_answersWith hidle ⟨k, .read, sel⟩ none rfl
  exact ⟨writes .dp 0b00#2, writes .dp 0b01#2, writes .dp 0b10#2, writes .dp 0b11#2,
    reads .dp 0b00#2, reads .dp 0b01#2, reads .dp 0b10#2, reads .dp 0b11#2,
    writes .ap 0b00#2, writes .ap 0b01#2, writes .ap 0b10#2, writes .ap 0b11#2,
    reads .ap 0b00#2, reads .ap 0b01#2, reads .ap 0b10#2, reads .ap 0b11#2⟩

/-- Settles O22: a foreign transaction is told from the stage's own by its header, a misfit by R91. -/
theorem intrusionAndMisfitPayloadAreRefused : Obligations.IntrusionAndMisfitPayloadAreRefused := by
  refine ⟨fun s o hb hr ho => step_of_intrusion hr ho hb, fun s tx r p hx hp hne => ?_, fun s hb => ?_,
    fun i s hwf => ?_⟩
  · have hwrite : decide (r.dir = .write) = !r.dir.bit := by cases r.dir <;> rfl
    exact exec_foreign hx r p (hp.trans hwrite) hne
  · obtain ⟨tx, hx⟩ := xact_of_busy hb
    have refused (k : Kind) (sel : BitVec 2) (hne : (⟨k, .read, sel⟩ : RegRef) ≠ ⟨.dp, .read, 0b11#2⟩) :=
      exec_foreign hx ⟨k, .read, sel⟩ none rfl (xact_ne_read hx hne)
    exact ⟨refused .dp 0b00#2 (by decide), refused .dp 0b01#2 (by decide), refused .dp 0b10#2 (by decide),
      refused .ap 0b00#2 (by decide), refused .ap 0b01#2 (by decide), refused .ap 0b10#2 (by decide),
      refused .ap 0b11#2 (by decide)⟩
  · obtain ⟨op, a, d, rfl⟩ | ⟨r, p, rfl⟩ | ⟨b, rfl⟩ := instr_cases i
    · rw [wellFormed_commandInstr] at hwf
      cases hwf
    · refine exec_misfit (fun hfits => ?_) s
      rw [(wellFormed_headerInstr_iff r p).2 hfits] at hwf
      cases hwf
    · rw [wellFormed_ackInstr] at hwf
      cases hwf

/-! ### The instruction a step runs (log 2) -/

/-- Bytes that cannot be a pattern's are decoded as a transaction (log 3). -/
theorem decode_transactionBytes_of_ge {h : Byte} (hge : 8 ≤ h.toNat) (p : Option Payload) :
    decode (transactionBytes h p) = decodeTransaction h p := by
  cases p with
  | none => exact if_neg (Nat.not_lt.2 hge)
  | some q => rfl

/-- Settles O23: at each port the bytes decode to the row that the step is known to run. -/
theorem stepRunsTheDecodedInstruction : Obligations.StepRunsTheDecodedInstruction := by
  intro s i hr
  refine ⟨fun r cs ho hi hc hdec => ?_, fun b d rs ho hb hp hdec => ?_, fun tx ho hx hp hdec => ?_,
    fun tx ho hi hge hdec => ?_⟩
  · rw [CmdRecord.bytes, decode_commandBytes] at hdec
    obtain rfl := Except.ok.inj hdec
    exact step_of_command hr ho hi hc
  · rw [decode_ackBytes] at hdec
    obtain rfl := Except.ok.inj hdec
    rw [step_of_answer hr ho hb hp, exec_ackInstr]
  · obtain ⟨r, hheader, hfits⟩ := xact_regRef hx
    rw [Transaction.bytes, hheader, decode_transactionBytes, decodeTransaction_header r _ hfits] at hdec
    obtain rfl := Except.ok.inj hdec
    rw [step_of_own hr ho hx hp, exec_headerInstr, rawTransfer_own (by rw [hx, ← hheader]) hfits]
  · rw [Transaction.bytes, decode_transactionBytes_of_ge hge] at hdec
    rw [step_of_outside hr ho hi, hdec]

end Sys2Proof.Machine
end

section
/-! The call formulation (spec/40_retrying_transfer.md part 2, spec/43_mem_write.md part 2, spec/60_exceptions.md): how
many invocations a call makes, which transactions they are of, how it ends, and what a successful `write_word` does to a
target. -/

namespace Sys2Proof.Machine

/-! ### One transfer (R111, R113, R120) -/

/-- A loop with budget left invokes at least once and at most as often as the budget allows, returns WAIT only when it
used all of it, and takes one answer an invocation. -/
theorem xferLoop_length (tx : Transaction) :
    ∀ {n : Nat} {answers : List (BitVec 3)} {r : CallResult AckCode}, xferLoop tx (n + 1) answers = some r →
      1 ≤ r.invocations.length ∧ r.invocations.length ≤ n + 1 ∧ (r.value = .wait → r.invocations.length = n + 1) ∧
        r.rest = answers.drop r.invocations.length
  | n, [], r, h => by simp at h
  | n, b :: bs, r, h => by
    by_cases hb : decodeAck b = .wait
    · rw [xferLoop_cons_of_wait hb] at h
      obtain ⟨q, hq, rfl⟩ := Option.map_eq_some_iff.1 h
      cases n with
      | zero =>
        obtain rfl := Option.some.inj hq
        simp
      | succ n =>
        obtain ⟨-, hle, hwait, hrest⟩ := xferLoop_length tx hq
        simpa [hrest] using ⟨hle, hwait⟩
    · rw [xferLoop_cons_of_ne_wait hb] at h
      obtain rfl := Option.some.inj h
      simp [hb]

theorem xferLoop_total (tx : Transaction) :
    ∀ {n : Nat} {answers : List (BitVec 3)}, n ≤ answers.length → ∃ r, xferLoop tx n answers = some r
  | 0, answers, _ => ⟨_, xferLoop_zero tx answers⟩
  | n + 1, b :: bs, h => by
    by_cases hb : decodeAck b = .wait
    · obtain ⟨r, hr⟩ := xferLoop_total tx (Nat.le_of_succ_le_succ h)
      exact ⟨_, by rw [xferLoop_cons_of_wait hb, hr]; rfl⟩
    · exact ⟨_, xferLoop_cons_of_ne_wait hb tx n bs⟩

/-- Fewer WAITs than the budget and then another code: that code is returned. -/
theorem xferLoop_waits_then (tx : Transaction) {k n : Nat} (hk : k < n) {b : BitVec 3} (hb : decodeAck b ≠ .wait)
    (rest : List (BitVec 3)) :
    xferLoop tx n (List.replicate k config.ackWait ++ b :: rest) =
      some ⟨decodeAck b, List.replicate k (waitInvocation tx) ++ [⟨tx.header, tx.payload, b⟩], rest⟩ := by
  obtain ⟨m, rfl⟩ := Nat.exists_eq_add_of_lt hk
  rw [Nat.add_assoc, xferLoop_replicate_wait, xferLoop_cons_of_ne_wait hb]
  rfl

/-- Settles O38: the loop with its whole budget of ten. -/
theorem retryingTransferMakesOneToTenInvocations : Obligations.RetryingTransferMakesOneToTenInvocations := by
  intro tx answers
  refine ⟨fun r h => xferLoop_length tx h, fun h => xferLoop_total tx h, ?_⟩
  rintro k b rest hk hb rfl
  exact ⟨_, xferLoop_waits_then tx hk hb rest, rfl, by simp, rfl⟩

/-! ### Calls in sequence -/

theorem xferOk_eq_some {tx : Transaction} {answers : List (BitVec 3)} {r : CallResult Bool}
    (h : xferOk tx answers = some r) :
    ∃ q, xfer tx answers = some q ∧ r = ⟨decide (q.value = .ok), q.invocations, q.rest⟩ := by
  unfold xferOk at h
  split at h
  · cases h
  · next q hq => exact ⟨q, hq, (Option.some.inj h).symm⟩

/-- A composition ends with its first operation if that fails, and otherwise goes on to the second (R99). -/
theorem andThen_eq_some {first second : List (BitVec 3) → Option (CallResult Bool)} {answers : List (BitVec 3)}
    {r : CallResult Bool} (h : andThen first second answers = some r) :
    (first answers = some r ∧ r.value = false) ∨
      ∃ p q, first answers = some p ∧ p.value = true ∧ second p.rest = some q ∧ r = q.after p.invocations := by
  unfold andThen at h
  split at h
  · cases h
  · next p hp =>
    split at h
    · next hvalue =>
      split at h
      · cases h
      · next q hq => exact .inr ⟨p, q, hp, hvalue, hq, (Option.some.inj h).symm⟩
    · next hvalue =>
      obtain rfl := Option.some.inj h
      exact .inl ⟨hp, Bool.eq_false_of_not_eq_true hvalue⟩

theorem andThen_of_false {first second : List (BitVec 3) → Option (CallResult Bool)} {answers : List (BitVec 3)}
    {r : CallResult Bool} (h : first answers = some r) (hvalue : r.value = false) :
    andThen first second answers = some r := by
  simp [andThen, h, hvalue]

/-! ### How many invocations (R233) -/

/-- An operation makes at least one invocation and at most `n`. -/
def MakesAtMost (n : Nat) (op : List (BitVec 3) → Option (CallResult Bool)) : Prop :=
  ∀ answers r, op answers = some r → 1 ≤ r.invocations.length ∧ r.invocations.length ≤ n

theorem xferOk_makesAtMost (tx : Transaction) : MakesAtMost 10 (xferOk tx) := by
  intro answers r h
  obtain ⟨q, hq, rfl⟩ := xferOk_eq_some h
  obtain ⟨hlow, hhigh, -⟩ := xferLoop_length tx hq
  exact ⟨hlow, hhigh⟩

theorem MakesAtMost.andThen {m n : Nat} {first second : List (BitVec 3) → Option (CallResult Bool)}
    (hf : MakesAtMost m first) (hs : MakesAtMost n second) : MakesAtMost (m + n) (andThen first second) := by
  intro answers r h
  obtain ⟨hfirst, -⟩ | ⟨p, q, hfirst, -, hsecond, rfl⟩ := andThen_eq_some h
  · have := hf _ _ hfirst
    omega
  · have := hf _ _ hfirst
    have := hs _ _ hsecond
    rw [CallResult.after_invocations, List.length_append]
    omega

theorem writeApCall_makesAtMost (a v : Word) : MakesAtMost 30 (writeApCall a v) :=
  (xferOk_makesAtMost _).andThen ((xferOk_makesAtMost _).andThen (xferOk_makesAtMost _))

theorem writeDataCall_makesAtMost (a d : Word) : MakesAtMost 30 (writeDataCall a d) :=
  (xferOk_makesAtMost _).andThen ((xferOk_makesAtMost _).andThen (xferOk_makesAtMost _))

theorem writeWordCall_makesAtMost (a v : Word) : MakesAtMost 60 (writeWordCall a v) :=
  (writeApCall_makesAtMost _ _).andThen (writeDataCall_makesAtMost _ _)

/-- A success makes at least one invocation for each transaction. -/
theorem SucceedsExactlyOn.length_le {op : List (BitVec 3) → Option (CallResult Bool)} {txs : List Transaction}
    (hop : SucceedsExactlyOn op txs) {answers : List (BitVec 3)} {r : CallResult Bool} (h : op answers = some r)
    (hvalue : r.value = true) : txs.length ≤ r.invocations.length := by
  obtain ⟨value, invs, rest⟩ := r
  obtain rfl : value = true := hvalue
  exact ((hop _ _ _).1 h).1.length_bounds.1

/-- With every answer OK it makes exactly one for each. -/
theorem Performs.of_all_ok {op : List (BitVec 3) → Option (CallResult Bool)} {txs : List Transaction}
    (hop : Performs op txs) {k : Nat} {r : CallResult Bool}
    (h : op (List.replicate (k + txs.length) config.ackOk) = some r) :
    r.value = true ∧ r.invocations.length = txs.length := by
  rw [Nat.add_comm, List.replicate_add, hop] at h
  obtain rfl := Option.some.inj h
  exact ⟨rfl, List.length_map _⟩

@[simp] theorem commandCall_reserved (a v : Word) : commandCall ⟨0b11#2, a, v⟩ = reservedCall := by
  simp [commandCall]

/-- Settles O41: the bounds add up along `andThen`; a success and an all-OK run count their transactions. -/
theorem invocationCountsOfEachCommand : Obligations.InvocationCountsOfEachCommand := by
  intro a d answers r
  simp only [commandCall_writeDp, commandCall_writeAp, commandCall_writeWord, commandCall_reserved]
  refine ⟨xferOk_makesAtMost _ _ _, fun h => ?_, fun h => ?_, fun h => ?_, fun k h => (xferOk_performs _).of_all_ok h,
    fun k h => (writeApCall_performs a d).of_all_ok h, fun k h => (writeWordCall_performs a d).of_all_ok h⟩
  · obtain ⟨hlow, hhigh⟩ := writeApCall_makesAtMost a d _ _ h
    exact ⟨hlow, hhigh, (writeApCall_succeedsExactlyOn a d).length_le h⟩
  · obtain ⟨hlow, hhigh⟩ := writeWordCall_makesAtMost a d _ _ h
    exact ⟨hlow, hhigh, (writeWordCall_succeedsExactlyOn a d).length_le h⟩
  · obtain rfl := Option.some.inj h
    exact ⟨rfl, rfl⟩

/-! ### Of which transactions -/

/-- Every invocation of an operation carries the header of one of `txs`. -/
def InvokesOnly (txs : List Transaction) (op : List (BitVec 3) → Option (CallResult Bool)) : Prop :=
  ∀ answers r, op answers = some r → ∀ i ∈ r.invocations, i.header ∈ txs.map Transaction.header

theorem xferOk_invokesOnly (tx : Transaction) : InvokesOnly [tx] (xferOk tx) := by
  intro answers r h i hi
  obtain ⟨q, hq, rfl⟩ := xferOk_eq_some h
  exact List.mem_singleton.2 (xferLoop_invocations_identical tx hq i hi).1

theorem InvokesOnly.andThen {xs ys : List Transaction} {first second : List (BitVec 3) → Option (CallResult Bool)}
    (hf : InvokesOnly xs first) (hs : InvokesOnly ys second) : InvokesOnly (xs ++ ys) (andThen first second) := by
  intro answers r h i hi
  rw [List.map_append]
  obtain ⟨hfirst, -⟩ | ⟨p, q, hfirst, -, hsecond, rfl⟩ := andThen_eq_some h
  · exact List.mem_append_left _ (hf _ _ hfirst i hi)
  · obtain hi | hi := List.mem_append.1 hi
    · exact List.mem_append_left _ (hf _ _ hfirst i hi)
    · exact List.mem_append_right _ (hs _ _ hsecond i hi)

theorem writeApCall_invokesOnly (a v : Word) :
    InvokesOnly [selectWrite a, apWrite a v, rdbuffRead] (writeApCall a v) :=
  (xferOk_invokesOnly _).andThen ((xferOk_invokesOnly _).andThen (xferOk_invokesOnly _))

/-- Settles O44: the composition ends with the failed configuration, whose headers are 0xB1, 0xA3 and 0xBD. -/
theorem failedCswConfigurationIssuesNoTarOrDrw : Obligations.FailedCswConfigurationIssuesNoTarOrDrw := by
  intro a v answers r h hvalue
  refine ⟨andThen_of_false h hvalue, fun i hi => ?_⟩
  have hheader : i.header ∈ [0xB1#8, 0xA3#8, 0xBD#8] := writeApCall_invokesOnly _ _ _ _ h i hi
  have hother : ∀ x ∈ [0xB1#8, 0xA3#8, 0xBD#8], x ≠ 0x8B#8 ∧ x ≠ 0xBB#8 := by decide
  exact hother _ hheader

/-! ### How a call ends (R195, R198) -/

/-- An operation ends with its first answer that is neither OK nor WAIT, and is true exactly when its last answer was
OK. -/
def EndsAtFailure (op : List (BitVec 3) → Option (CallResult Bool)) : Prop :=
  ∀ answers r, op answers = some r → ∃ before last, r.invocations = before ++ [last] ∧
    (r.value = true ↔ decodeAck last.ack = .ok) ∧ ∀ i ∈ before, decodeAck i.ack = .ok ∨ decodeAck i.ack = .wait

/-- A loop with budget left returns the code of its last answer, after WAITs only. -/
theorem xferLoop_last (tx : Transaction) :
    ∀ {n : Nat} {answers : List (BitVec 3)} {r : CallResult AckCode}, xferLoop tx (n + 1) answers = some r →
      ∃ before last, r.invocations = before ++ [last] ∧ r.value = decodeAck last.ack ∧
        ∀ i ∈ before, decodeAck i.ack = .wait
  | n, [], r, h => by simp at h
  | n, b :: bs, r, h => by
    by_cases hb : decodeAck b = .wait
    · rw [xferLoop_cons_of_wait hb] at h
      obtain ⟨q, hq, rfl⟩ := Option.map_eq_some_iff.1 h
      cases n with
      | zero =>
        obtain rfl := Option.some.inj hq
        exact ⟨[], _, rfl, hb.symm, nofun⟩
      | succ n =>
        obtain ⟨before, last, hinvs, hvalue, hwaits⟩ := xferLoop_last tx hq
        exact ⟨⟨tx.header, tx.payload, b⟩ :: before, last, congrArg (_ :: ·) hinvs, hvalue,
          List.forall_mem_cons.2 ⟨hb, hwaits⟩⟩
    · rw [xferLoop_cons_of_ne_wait hb] at h
      obtain rfl := Option.some.inj h
      exact ⟨[], _, rfl, rfl, nofun⟩

theorem xferOk_endsAtFailure (tx : Transaction) : EndsAtFailure (xferOk tx) := by
  intro answers r h
  obtain ⟨q, hq, rfl⟩ := xferOk_eq_some h
  obtain ⟨before, last, hinvs, hvalue, hwaits⟩ := xferLoop_last tx hq
  exact ⟨before, last, hinvs, by rw [decide_eq_true_iff, hvalue], fun i hi => .inr (hwaits i hi)⟩

theorem EndsAtFailure.andThen {first second : List (BitVec 3) → Option (CallResult Bool)} (hf : EndsAtFailure first)
    (hs : EndsAtFailure second) : EndsAtFailure (andThen first second) := by
  intro answers r h
  obtain ⟨hfirst, -⟩ | ⟨p, q, hfirst, hvalue, hsecond, rfl⟩ := andThen_eq_some h
  · exact hf _ _ hfirst
  · obtain ⟨before, last, hinvs, hiff, hbefore⟩ := hf _ _ hfirst
    obtain ⟨before', last', hinvs', hiff', hbefore'⟩ := hs _ _ hsecond
    have hall : ∀ i ∈ p.invocations, decodeAck i.ack = .ok ∨ decodeAck i.ack = .wait := by
      rw [hinvs]
      exact List.forall_mem_append.2 ⟨hbefore, by simpa using .inl (hiff.1 hvalue)⟩
    refine ⟨p.invocations ++ before', last', ?_, hiff', List.forall_mem_append.2 ⟨hall, hbefore'⟩⟩
    rw [CallResult.after_invocations, hinvs', List.append_assoc]

theorem writeApCall_endsAtFailure (a v : Word) : EndsAtFailure (writeApCall a v) :=
  (xferOk_endsAtFailure _).andThen ((xferOk_endsAtFailure _).andThen (xferOk_endsAtFailure _))

theorem writeDataCall_endsAtFailure (a d : Word) : EndsAtFailure (writeDataCall a d) :=
  (xferOk_endsAtFailure _).andThen ((xferOk_endsAtFailure _).andThen (xferOk_endsAtFailure _))

/-- Settles O46: a transfer ends so, and `andThen` goes on after an OK only. -/
theorem firstFailureEndsTheCommand : Obligations.FirstFailureEndsTheCommand := by
  rintro ⟨op, a, v⟩ answers r hop h
  obtain rfl | rfl | rfl | rfl := two_bit_cases op
  · rw [commandCall_writeDp] at h
    exact xferOk_endsAtFailure _ _ _ h
  · rw [commandCall_writeAp] at h
    exact writeApCall_endsAtFailure _ _ _ _ h
  · rw [commandCall_writeWord] at h
    exact (writeApCall_endsAtFailure _ _).andThen (writeDataCall_endsAtFailure _ _) _ _ h
  · exact absurd rfl hop

/-! ### What a target makes of it (R53, R68; log 11) -/

section
variable {σ : Type} {act : σ → Invocation → σ} {select tar : σ → Word} {mem : σ → Word → Word}

/-- WAITs change nothing in the target, so a retried transaction is its OK. -/
theorem WordTarget.foldl_retriedTransfer (ht : WordTarget act select tar mem) (tx : Transaction) (k : Nat) (x : σ) :
    (retriedTransfer tx k).foldl act x = act x (okInvocation tx) := by
  induction k with
  | zero => rfl
  | succ k ih =>
    have hwait : act x (waitInvocation tx) = x := ht.notTaken x _ (show config.ackWait ≠ config.ackOk by decide)
    rw [retriedTransfer_succ, List.foldl_cons, hwait, ih]

theorem WordTarget.foldl_retriedTrace (ht : WordTarget act select tar mem) {txs : List Transaction}
    {invs : List Invocation} (h : RetriedTrace txs invs) (x : σ) :
    invs.foldl act x = (txs.map okInvocation).foldl act x := by
  induction txs generalizing invs x with
  | nil =>
    obtain rfl : invs = [] := h
    rfl
  | cons tx txs ih =>
    obtain ⟨k, -, later, hlater, rfl⟩ := h
    rw [List.foldl_append, ht.foldl_retriedTransfer, ih hlater]
    rfl

/-- The OKs of the SELECT and CSW writes leave SELECT 0, that of the TAR write names the address, and that of the DRW
write stores the word there; the flushes change nothing. -/
theorem WordTarget.word_stored (ht : WordTarget act select tar mem) (x : σ) (a v : Word) {y : σ}
    (hy : y = ([selectWrite config.apCsw, apWrite config.apCsw cswval, Machine.rdbuffRead, apWrite config.tarSel a,
      apWrite config.drwSel v, Machine.rdbuffRead].map okInvocation).foldl act x) :
    mem y a = v ∧ select y = 0#32 := by
  have hflush : ∀ z, act z (okInvocation Machine.rdbuffRead) = z := ht.rdbuffRead
  simp only [List.map_cons, List.map_nil, List.foldl_cons, List.foldl_nil, hflush] at hy
  have hselect : select (act x (okInvocation (selectWrite config.apCsw))) = 0#32 := ht.selectWritten x _
  generalize act x (okInvocation (selectWrite config.apCsw)) = selected at hselect hy
  have hcsw : select (act selected (okInvocation (apWrite config.apCsw cswval))) = 0#32 :=
    (ht.cswWritten selected cswval).trans hselect
  generalize act selected (okInvocation (apWrite config.apCsw cswval)) = configured at hcsw hy
  obtain ⟨htar, haddr⟩ : select (act configured (okInvocation (apWrite config.tarSel a))) = 0#32 ∧
      tar (act configured (okInvocation (apWrite config.tarSel a))) = a := ht.tarWritten configured a hcsw
  generalize act configured (okInvocation (apWrite config.tarSel a)) = addressed at htar haddr hy
  obtain ⟨hdrw, hmem⟩ := ht.drwWritten addressed v htar
  rw [hy, ← haddr]
  exact ⟨hmem, hdrw⟩
end

/-- Settles O49: on the target a retried trace is its OKs, and those of `write_word` store the word. -/
theorem wordReachesAnObedientTarget : Obligations.WordReachesAnObedientTarget := by
  rintro σ act select tar mem ht x a v answers ⟨_, invs, rest⟩ h rfl
  obtain ⟨hretried, -⟩ := (writeWordCall_succeedsExactlyOn a v _ _ _).1 h
  exact ht.word_stored x a v (ht.foldl_retriedTrace hretried x)

end Sys2Proof.Machine
end

section
/-! Runs of steps (spec/40_retrying_transfer.md part 2, spec/70_reset_and_hazards.md part 4): the steps of a command
perform its call, and every command ends. -/

namespace Sys2Proof.Machine

/-! ### Runs -/

theorem run_succ_of_next {M : Host.Core} {s t : M.State} (h : M.step s = .next t) (k : Nat) :
    M.run (k + 1) s = M.run k t := by
  simp only [Host.Core.run, h]

theorem run_add_of_run {M : Host.Core} {m : Nat} {s t : M.State} (h : M.run m s = .next t) (k : Nat) :
    M.run (m + k) s = M.run k t := by
  induction m generalizing s with
  | zero =>
    obtain rfl := Host.Outcome.next.inj h
    rw [Nat.zero_add]
  | succ m ih =>
    cases hs : M.step s with
    | next u =>
      rw [run_succ_of_next hs] at h
      rw [Nat.succ_add, run_succ_of_next hs, ih h]
    | fault r => simp only [Host.Core.run, hs, reduceCtorEq] at h
    | refused r => simp only [Host.Core.run, hs, reduceCtorEq] at h

theorem run_succ_of_step {s t : State} (h : step s = .next t) (k : Nat) :
    Host.Core.run core (k + 1) s = Host.Core.run core k t :=
  run_succ_of_next (M := core) h k

/-! ### The state after the invocations of a call -/

/-- The verdict of a finished operation: on to the next transaction, or the end of the command (R99, R117). -/
def endVerdict (ok : Bool) (next : Option Stage) : Verdict :=
  if ok then verdict .ok 0#4 next else .finish false

theorem endVerdict_none (ok : Bool) : endVerdict ok none = .finish ok := by
  cases ok <;> rfl

theorem verdict_of_ne_wait {c : AckCode} (h : c ≠ .wait) (a : BitVec 4) (next : Option Stage) :
    verdict c a next = endVerdict (decide (c = .ok)) next := by
  cases c with
  | wait => exact absurd rfl h
  | ok => rfl
  | fault => rfl
  | protocolError => rfl

/-- The verdict of a finished operation sets the stage and the attempt count, so an earlier verdict that did not end the
command leaves no trace. -/
theorem endVerdict_onBlock (ok : Bool) (next : Option Stage) {v : Verdict} (hv : ∀ ok', v ≠ .finish ok') (b : Block)
    (c : AckCode) :
    (endVerdict ok next).onBlock { v.onBlock b with ackQ := c } =
      (endVerdict ok next).onBlock { b with ackQ := c } := by
  cases v with
  | finish ok' => exact absurd rfl (hv ok')
  | reissue =>
    cases ok with
    | false => rfl
    | true => cases next <;> rfl
  | advance st =>
    cases ok with
    | false => rfl
    | true => cases next <;> rfl

theorem Verdict.events_eq_nil {v : Verdict} (hv : ∀ ok, v ≠ .finish ok) : v.events = [] := by
  cases v with
  | finish ok => exact absurd rfl (hv ok)
  | reissue => rfl
  | advance st => rfl

/-- The machine after these invocations, the last answered `c`, with these replies left, before their verdict. -/
def State.settled (c : AckCode) (invs : List Invocation) (left : List Reply) (s : State) : State :=
  { s with
    block := { s.block with ackQ := c }
    replies := left
    history := s.history ++ invs.map Event.invoked }

/-- More invocations after a first part whose verdict did not end the command are one longer part. -/
theorem conclude_settled_settled (ok : Bool) (next : Option Stage) {v : Verdict} (hv : ∀ ok', v ≠ .finish ok')
    (s : State) (c c' : AckCode) (xs ys : List Invocation) (left left' : List Reply) :
    conclude (endVerdict ok next) ((conclude v (s.settled c xs left)).settled c' ys left') =
      conclude (endVerdict ok next) (s.settled c' (xs ++ ys) left') := by
  rw [conclude_eq v, Verdict.events_eq_nil hv, conclude_eq, conclude_eq]
  simp only [State.settled, endVerdict_onBlock ok next hv, List.map_append, List.append_assoc, List.nil_append]

/-- One answered invocation. -/
theorem step_settles {s : State} {tx : Transaction} {b : BitVec 3} {d : Word} {rs : List Reply}
    (hr : s.resetIn = .released) (ho : s.outside = none) (hx : xact s.block = some tx)
    (hp : s.replies = .returns b d :: rs) :
    step s = .next (conclude (s.block.verdictOn b) (s.settled (decodeAck b) [⟨tx.header, tx.payload, b⟩] rs)) := by
  rw [step_of_answer hr ho (busy_of_xact hx) hp, invoke_busy (by exact hx)]
  rfl

/-! ### A transfer, and transfers in sequence -/

/-- The steps of one transfer perform what is left of its loop (R111, R117). -/
theorem run_xferLoop {tx : Transaction} :
    ∀ {n : Nat} {s : State} {answers : List (BitVec 3 × Word)} {r : CallResult AckCode},
      xact s.block = some tx → s.resetIn = .released → s.outside = none → s.replies = returning answers →
      s.block.attempt.toNat + n = 9 → xferLoop tx (n + 1) (answers.map Prod.fst) = some r →
      ∃ c, Host.Core.run core r.invocations.length s =
        .next (conclude (endVerdict (decide (r.value = .ok)) (nextStage s.block.stage))
          (s.settled c r.invocations (returning (answers.drop r.invocations.length))))
  | n, s, [], r, _, _, _, _, _, h => by simp at h
  | n, s, (b, d) :: rest, r, hx, hr, ho, hp, hbudget, h => by
    have hreplies : s.replies = .returns b d :: returning rest := hp
    have hstep := step_settles hr ho hx hreplies
    rw [List.map_cons] at h
    by_cases hb : decodeAck b = .wait
    · rw [xferLoop_cons_of_wait hb] at h
      obtain ⟨q, hq, rfl⟩ := Option.map_eq_some_iff.1 h
      cases n with
      | zero =>
        obtain rfl := Option.some.inj hq
        have hv : s.block.verdictOn b = .finish false := by
          rw [Block.verdictOn, hb, verdict_wait_of_not_lt (by omega)]
        rw [hv] at hstep
        exact ⟨decodeAck b, (run_succ_of_step hstep 0).trans rfl⟩
      | succ n =>
        have hlt : s.block.attempt.toNat < 9 := by omega
        have hv : s.block.verdictOn b = .reissue := by rw [Block.verdictOn, hb, verdict_wait_of_lt hlt]
        rw [hv] at hstep
        obtain ⟨c, hrun⟩ := run_xferLoop
          (s := conclude .reissue (s.settled (decodeAck b) [⟨tx.header, tx.payload, b⟩] (returning rest))) hx hr ho rfl
          ((congrArg (· + n) (attempt_succ hlt)).trans (by omega)) hq
        exact ⟨c, (run_succ_of_step hstep _).trans
          (hrun.trans (congrArg _ (conclude_settled_settled (v := .reissue) _ _ nofun s _ c _ q.invocations _ _)))⟩
    · rw [xferLoop_cons_of_ne_wait hb] at h
      obtain rfl := Option.some.inj h
      rw [Block.verdictOn, verdict_of_ne_wait hb] at hstep
      exact ⟨decodeAck b, (run_succ_of_step hstep 0).trans rfl⟩

/-- A block about to issue the transaction of stage `st` for the first time, with these latches and these replies. -/
structure Issuing (st : Stage) (addr data : Word) (answers : List (BitVec 3 × Word)) (s : State) : Prop where
  stage : s.block.stage = st
  attempt : s.block.attempt = 0#4
  addrQ : s.block.addrQ = addr
  dataQ : s.block.dataQ = data
  released : s.resetIn = .released
  alone : s.outside = none
  replies : s.replies = returning answers

/-- The steps from stage `st` of a block with these latches perform the operation and go on to `next`. -/
def Executes (op : List (BitVec 3) → Option (CallResult Bool)) (addr data : Word) (st : Stage) (next : Option Stage) :
    Prop :=
  ∀ (s : State) (answers : List (BitVec 3 × Word)) (r : CallResult Bool),
    Issuing st addr data answers s → op (answers.map Prod.fst) = some r →
    r.rest = (answers.drop r.invocations.length).map Prod.fst ∧
    ∃ c, Host.Core.run core r.invocations.length s =
      .next (conclude (endVerdict r.value next)
        (s.settled c r.invocations (returning (answers.drop r.invocations.length))))

/-- A stage performs the transfer of its transaction. -/
theorem xferOk_executes {tx : Transaction} {addr data : Word} {st : Stage} {next : Option Stage}
    (hx : xact (blockAt st addr data) = some tx) (hnext : nextStage st = next) :
    Executes (xferOk tx) addr data st next := by
  intro s answers r hs h
  obtain ⟨q, hq, rfl⟩ := xferOk_eq_some h
  obtain ⟨-, -, -, hrest⟩ := xferLoop_length tx hq
  have hxs : xact s.block = some tx := (xact_congr hs.stage hs.addrQ hs.dataQ).trans hx
  refine ⟨by rw [hrest, List.map_drop], ?_⟩
  rw [← hnext, ← hs.stage]
  exact run_xferLoop hxs hs.released hs.alone hs.replies (by rw [hs.attempt]; rfl) hq

/-- The second operation starts in the state the first leaves, on the answers it left. -/
theorem Executes.andThen {first second : List (BitVec 3) → Option (CallResult Bool)} {addr data : Word}
    {st st' : Stage} {next : Option Stage} (hfirst : Executes first addr data st (some st'))
    (hsecond : Executes second addr data st' next) : Executes (andThen first second) addr data st next := by
  intro s answers r hs h
  obtain ⟨hr, hvalue⟩ | ⟨p, q, hp, hvalue, hq, rfl⟩ := andThen_eq_some h
  · obtain ⟨hrest, c, hrun⟩ := hfirst s answers r hs hr
    rw [hvalue] at hrun ⊢
    exact ⟨hrest, c, hrun⟩
  · obtain ⟨hrest, c, hrun⟩ := hfirst s answers p hs hp
    rw [hvalue] at hrun
    rw [hrest] at hq
    have hmid : Issuing st' addr data (answers.drop p.invocations.length)
        (conclude (.advance st') (s.settled c p.invocations (returning (answers.drop p.invocations.length)))) :=
      ⟨rfl, rfl, hs.addrQ, hs.dataQ, hs.released, hs.alone, rfl⟩
    obtain ⟨hrest', c', hrun'⟩ := hsecond _ _ q hmid hq
    rw [List.drop_drop] at hrest' hrun'
    simp only [CallResult.after_value, CallResult.after_invocations, CallResult.after_rest, List.length_append]
    refine ⟨hrest', c', (run_add_of_run hrun _).trans (hrun'.trans (congrArg _ ?_))⟩
    exact conclude_settled_settled (v := .advance st') _ _ nofun s c c' p.invocations q.invocations _ _

/-- Each command that is not the reserved one, from its first stage to its end (R132, R145, R169). -/
theorem commandCall_executes {cmd : CmdRecord} (hop : cmd.op ≠ 0b11#2) :
    Executes (commandCall cmd) cmd.addr cmd.data (firstStage cmd.op) none := by
  obtain ⟨op, a, d⟩ := cmd
  obtain rfl | rfl | rfl | rfl := two_bit_cases op
  · rw [commandCall_writeDp]
    exact xferOk_executes (st := .dpWr) rfl rfl
  · rw [commandCall_writeAp]
    exact (xferOk_executes (st := .apSel) rfl rfl).andThen
      ((xferOk_executes (st := .apWr) rfl rfl).andThen (xferOk_executes (st := .apFlush) rfl rfl))
  · rw [commandCall_writeWord]
    have hconfigure : Executes (writeApCall config.apCsw cswval) a d .wwSel (some .wwTar) :=
      (xferOk_executes (st := .wwSel) rfl rfl).andThen
        ((xferOk_executes (st := .wwCsw) rfl rfl).andThen (xferOk_executes (st := .wwCswFlush) rfl rfl))
    have hstore : Executes (writeDataCall a d) a d .wwTar none :=
      (xferOk_executes (st := .wwTar) rfl rfl).andThen
        ((xferOk_executes (st := .wwDrw) rfl rfl).andThen (xferOk_executes (st := .wwFlush) rfl rfl))
    exact hconfigure.andThen hstore
  · exact absurd rfl hop

/-- Settles O47: ACCEPT, then the steps of the call; the reserved command ends in ACCEPT. -/
theorem stepsPerformTheCallOfEachCommand : Obligations.StepsPerformTheCallOfEachCommand := by
  intro s cmd cs answers r hi hr ho hc hp h
  have hstep := step_accepts hr ho hi hc
  rw [Nat.add_comm, run_succ_of_step hstep]
  by_cases hop : cmd.op = 0b11#2
  · obtain ⟨op, a, d⟩ := cmd
    obtain rfl : op = 0b11#2 := hop
    rw [commandCall_reserved] at h
    obtain rfl := Option.some.inj h
    refine ⟨_, rfl, ?_⟩
    simp [firstStage, acceptEvents, hr, ho, hp]
  · have hissuing : Issuing (firstStage cmd.op) cmd.addr cmd.data answers (accepted cmd { s with commands := cs }) :=
      ⟨by simp, by simp, by simp, by simp, by simp [hr], by simp [ho], by simp [hp]⟩
    obtain ⟨-, c, hrun⟩ := commandCall_executes hop _ answers r hissuing h
    rw [endVerdict_none] at hrun
    refine ⟨_, hrun, ?_⟩
    simp [conclude_eq, Verdict.onBlock, Verdict.events, State.settled, acceptEvents, hop, hr, ho]

/-! ### Every command ends (R234) -/

/-- How many transactions the command has still to complete at a stage (the tables of R132, R145, R169). -/
def transactionsLeft (st : Stage) : Nat :=
  match st with
  | .idle => 0
  | .dpWr => 1
  | .apSel => 3
  | .apWr => 2
  | .apFlush => 1
  | .wwSel => 6
  | .wwCsw => 5
  | .wwCswFlush => 4
  | .wwTar => 3
  | .wwDrw => 2
  | .wwFlush => 1

theorem transactionsLeft_nextStage {st st' : Stage} (h : nextStage st = some st') :
    transactionsLeft st = transactionsLeft st' + 1 := by
  cases st <;> cases h <;> rfl

theorem transactionsLeft_pos {st : Stage} (h : st ≠ .idle) : 1 ≤ transactionsLeft st := by
  revert h
  cases st <;> decide

theorem transactionsLeft_firstStage (op : BitVec 2) : transactionsLeft (firstStage op) ≤ 6 := by
  revert op; decide

/-- A command in progress whose primitive returns, with at most `n` invocations left: ten of each transaction it has
still to complete, less the WAITs of the present one. -/
structure Running (n : Nat) (s : State) : Prop where
  busy : s.block.stage ≠ .idle
  released : s.resetIn = .released
  alone : s.outside = none
  returns : s.primitiveReturns = true
  attempt : s.block.attempt.toNat ≤ 9
  left : 10 * transactionsLeft s.block.stage ≤ n + s.block.attempt.toNat

/-- At most `n` steps, one invocation each, end the command with one response. -/
def EndsWithin (n : Nat) (s : State) : Prop :=
  ∃ (t : State) (invs : List Invocation) (ok : Bool), invs.length ≤ n ∧
    Host.Core.run core invs.length s = .next t ∧ t.block.stage = .idle ∧ t.block.rspValid = true ∧ t.block.rspOk = ok ∧
    t.commands = s.commands ∧ t.history = s.history ++ (invs.map Event.invoked ++ [.responded ok])

theorem EndsWithin.of_step {n : Nat} {s t : State} {inv : Invocation} (hstep : step s = .next t)
    (hc : t.commands = s.commands) (hh : t.history = s.history ++ [.invoked inv]) (h : EndsWithin n t) :
    EndsWithin (n + 1) s := by
  obtain ⟨u, invs, ok, hlen, hrun, hidle, hvalid, hok, hcommands, hhist⟩ := h
  refine ⟨u, inv :: invs, ok, Nat.succ_le_succ hlen, (run_succ_of_step hstep _).trans hrun, hidle, hvalid, hok,
    hcommands.trans hc, ?_⟩
  rw [hhist, hh, List.append_assoc]
  rfl

/-- A draw from replies that all return gives a pattern, and leaves replies that all return. -/
theorem drawReply_of_primitiveReturns {s : State} (h : s.primitiveReturns = true) :
    ∃ b d u, drawReply s = (.returns b d, u) ∧ u.primitiveReturns = true := by
  cases hp : s.replies with
  | nil => exact ⟨_, _, _, drawReply_nil hp, h⟩
  | cons r rs =>
    rw [State.primitiveReturns, hp, List.all_cons, Bool.and_eq_true, decide_eq_true_iff] at h
    obtain ⟨hne, hrs⟩ := h
    cases r with
    | never => exact absurd rfl hne
    | returns b d => exact ⟨b, d, _, drawReply_cons hp, hrs⟩

/-- An invocation uses one of those left: a WAIT lengthens the attempt count, an OK shortens the command, and whatever
else ends it. -/
theorem Running.endsWithin {n : Nat} : ∀ {s : State}, Running n s → EndsWithin n s := by
  induction n with
  | zero =>
    intro s h
    have := transactionsLeft_pos h.busy
    have := h.left
    have := h.attempt
    omega
  | succ n ih =>
    intro s ⟨hbusy, hr, ho, hreturns, hattempt, hleft⟩
    obtain ⟨b, d, u, hdraw, hreturns'⟩ := drawReply_of_primitiveReturns hreturns
    obtain ⟨hblock, hcommands, hreset, houtside, hhist⟩ := hdraw ▸ drawReply_state s
    obtain ⟨tx, hx⟩ := xact_of_busy hbusy
    have hstep := step_of_draw hr ho hbusy hdraw
    rw [invoke_eq (by rw [hblock]; exact hx), hblock, hhist] at hstep
    obtain ⟨-, hlt, hv⟩ | ⟨st, -, hnext, hv⟩ | ⟨ok, -, hv⟩ := verdictOn_cases s.block b
    · rw [hv] at hstep
      have hsucc := attempt_succ hlt
      refine .of_step hstep hcommands rfl (ih ⟨hbusy, hreset.trans hr, houtside.trans ho, hreturns', ?_, ?_⟩)
      · exact hsucc.trans_le hlt
      · simp only [Verdict.onBlock, hsucc]
        omega
    · rw [hv] at hstep
      refine .of_step hstep hcommands rfl
        (ih ⟨nextStage_ne_idle hnext, hreset.trans hr, houtside.trans ho, hreturns', Nat.zero_le 9, ?_⟩)
      rw [transactionsLeft_nextStage hnext] at hleft
      simp only [Verdict.onBlock, BitVec.toNat_ofNat]
      omega
    · rw [hv] at hstep
      exact ⟨_, [⟨tx.header, tx.payload, b⟩], ok, Nat.succ_le_succ (Nat.zero_le n),
        (run_succ_of_step hstep 0).trans rfl, rfl, rfl, rfl, hcommands, rfl⟩

/-- Settles O48: ACCEPT leaves at most six transactions, and the reserved command none. -/
theorem everyCommandEndsWithinSixtyInvocations : Obligations.EveryCommandEndsWithinSixtyInvocations := by
  intro s cmd cs hi hr ho hc hreturns
  have hstep := step_accepts hr ho hi hc
  by_cases hop : cmd.op = 0b11#2
  · refine ⟨_, [], false, Nat.zero_le _, by simp [duration], run_succ_of_step hstep 0, ?_⟩
    simp [firstStage_eq_idle_iff, hop, acceptEvents]
  · have hrunning : Running 60 (accepted cmd { s with commands := cs }) :=
      { busy := by rw [accepted_stage]; exact mt (firstStage_eq_idle_iff _).1 hop
        released := (accepted_resetIn ..).trans hr
        alone := (accepted_outside ..).trans ho
        returns := by rw [State.primitiveReturns, accepted_replies]; exact hreturns
        attempt := by simp
        left := by
          have := transactionsLeft_firstStage cmd.op
          rw [accepted_stage]
          omega }
    obtain ⟨t, invs, ok, hlen, hrun, hidle, hvalid, hok, hcommands, hhist⟩ := hrunning.endsWithin
    refine ⟨t, invs, ok, hlen, Nat.mul_le_mul_right _ hlen, ?_, hidle, hvalid, hok, ?_, ?_⟩
    · rw [Nat.add_comm, run_succ_of_step hstep, hrun]
    · rw [hcommands, accepted_commands]
    · rw [hhist, accepted_history, acceptEvents, if_neg hop, List.append_assoc]
      rfl

end Sys2Proof.Machine
end
